-- ==== Sys2Proof/Config.lean ====
section
/-! DEFINITION. The implementation parameters of RDEC (spec/00_scope.md rule R6), each at the value R6 gives it.
The sizes and counts also stand as literals in the types of Word.lean and State.lean; Laws/Operands.lean ties the
two together. -/

namespace Sys2Proof.Config

/-- `REPORT_BYTES` (R6, R34): a RawReport is always exactly 64 bytes. -/
abbrev reportBytes : Nat := 64

/-- The byte width (R6, R7). -/
abbrev byteWidth : Nat := 8

/-- The width of the 16-bit fields (R6). -/
abbrev fieldWidth : Nat := 16

/-- The number of position/status/speed samples, ref1 to ref8 (R6). -/
abbrev sampleCount : Nat := 8

/-- The number of counters, ref1cnt to ref4cnt (R6). -/
abbrev counterCount : Nat := 4

/-- `STATUS_ID` (R6, R50, decision D8): the status command id. -/
def statusId : BitVec 8 := 0x04

/-- `NOT_READY_LEN` (R6): the declared length of the not-ready signature. -/
def notReadyLen : BitVec 8 := 0x38

/-- `NOT_READY_END` (R6, C2): the first byte after the zero-tested range, `REPORT_BYTES - 5`. -/
def notReadyEnd : Nat := reportBytes - 5

/-- `VALID_SWAP` (R6, R75, C1, decision D9): the byte order of the validFlags word.
The spec's value is false.  The decoding functions take it as an argument, so a claim can be made for both
readings; only the meaning of DECODE_STATUS reads this value (log entry 5). -/
def validSwap : Bool := false

end Sys2Proof.Config
end

