-- ==== Sys2Proof/Word.lean ====
section
/-! DEFINITION. The values of RDEC (spec/00_scope.md rule R8) and the 64-byte buffer (R9, R34). -/

namespace Sys2Proof

/-- A byte, the spec's `u8` (R7, R8). -/
abbrev Byte := BitVec 8

/-- The spec's `u16` (R8). -/
abbrev U16 := BitVec 16

/-- The spec's `u4` (R8): a hex digit, or the `unknown` nibble of a status byte. -/
abbrev U4 := BitVec 4

/-- The document's RawReport (R34): `REPORT_BYTES` = 64 bytes, byte `i` being `raw[i]`. -/
abbrev RawReport := Vector Byte 64

end Sys2Proof
end

