-- ==== Sys2Proof/Syntax.lean ====
section
/-! DEFINITION. The operations of RDEC (spec/opcode_table.json, spec/30_encoding.md rule R48) and the input pins
that select one at each rising edge (R18, R47). -/

namespace Sys2Proof

/-- One operation of RDEC, with its operand: one constructor per row of the opcode table.
`decodeStatus` and `decodeMismatch` carry the whole 64-byte sample of the edge (R35, R65, R67). -/
inductive Instr where
  | reset
  | decodeStatus (raw : RawReport)
  | decodeMismatch (raw : RawReport)
  | idle
deriving DecidableEq, Repr

/-- The input pins of RDEC as one rising edge of `clk` samples them (R18).
The 64 bytes stand in place of the 512 wires of `raw_bus`, as R19 allows; `busOfRaw` and `rawOfBus` of
Decode.lean are the packing. -/
structure Pins where
  rst     : Bool
  inValid : Bool
  raw     : RawReport
deriving DecidableEq, Repr

/-- Why a byte list is not the byte form of one edge, or an edge selects no operation. -/
inductive DecodeError where
  /-- Fewer than the two bytes that hold the operation word. -/
  | tooShort
  /-- One of the bits 15 to 10 above the 10-bit operation word is set. -/
  | notTenBits
  /-- More bytes than the operation word and bytes 1 to 63 of the buffer. -/
  | tooLong
  /-- No row of the operation map matches: R48 says this never happens. -/
  | noOperation
deriving DecidableEq, Repr

end Sys2Proof
end

