-- ==== Sys2Proof/WellFormed.lean ====
section
/-! DEFINITION. Which operation terms stand for an edge (spec/30_encoding.md rule R48): the identifier byte of the
sample separates DECODE_STATUS from DECODE_MISMATCH. -/

namespace Sys2Proof

/-- Row 2 of R48 needs `raw[0]` = `STATUS_ID`, row 3 `raw[0]` ≠ `STATUS_ID`; RESET and IDLE have no operand. -/
def Instr.wellFormed : Instr → Bool
  | .reset => true
  | .decodeStatus raw => raw[0] == Config.statusId
  | .decodeMismatch raw => raw[0] != Config.statusId
  | .idle => true

end Sys2Proof
end

