-- ==== Sys2Proof/Decode.lean ====
section
/-! DEFINITION. From the sampled pins to the operation of the edge (spec/30_encoding.md rules R47, R48) and back;
the packing of the buffer on `raw_bus` (R19); the byte form of an edge and the host's two table-word functions. -/

namespace Sys2Proof

/-! ### The packing of `raw_bus` (R19) -/

/-- The 512 wires of `raw_bus` for a buffer: byte `i` on bits `8*i+7` to `8*i` (R19, decision D4). -/
def busOfRaw (raw : RawReport) : BitVec 512 :=
  BitVec.ofNat 512 (raw.toList.foldr (fun b n => b.toNat + 256 * n) 0)

/-- The buffer that the 512 wires of `raw_bus` carry (R19). -/
def rawOfBus (bus : BitVec 512) : RawReport :=
  Vector.ofFn fun i => bus.extractLsb' (8 * i.val) 8

/-! ### The operation word and the operation map -/

/-- The operation word OPW (R47): bit 9 is `rst`, bit 8 `in_valid`, bits 7 to 0 `raw[0]`. -/
def opw (p : Pins) : BitVec 10 :=
  (BitVec.ofBool p.rst ++ BitVec.ofBool p.inValid) ++ p.raw[0]

/-- The operation names of R48, without operands. -/
inductive Operation where
  | reset
  | decodeStatus
  | decodeMismatch
  | idle
deriving DecidableEq, Repr

/-- One row of the operation map: the operation matches when `(OPW & mask) == pattern`. -/
structure OpRow where
  operation : Operation
  pattern   : BitVec 10
  mask      : BitVec 10
deriving DecidableEq, Repr

/-- The operation map of R48, in priority order. -/
def opRows : List OpRow :=
  [ { operation := .reset,          pattern := 0x200, mask := 0x200 },
    { operation := .decodeStatus,   pattern := 0x100 ||| Config.statusId.setWidth 10, mask := 0x3FF },
    { operation := .decodeMismatch, pattern := 0x100, mask := 0x300 },
    { operation := .idle,           pattern := 0x000, mask := 0x300 } ]

/-- Whether a row of the map matches an operation word. -/
def OpRow.hits (row : OpRow) (w : BitVec 10) : Bool :=
  w &&& row.mask == row.pattern

/-- The operation an operation word selects: the first row that matches (R48). -/
def selectOperation (w : BitVec 10) : Option Operation :=
  (opRows.find? (·.hits w)).map (·.operation)

/-- An operation name with the sample as its operand. -/
def Operation.withSample : Operation → RawReport → Instr
  | .reset, _ => .reset
  | .decodeStatus, raw => .decodeStatus raw
  | .decodeMismatch, raw => .decodeMismatch raw
  | .idle, _ => .idle

/-- The operation that one edge performs, from the pins it samples (R48, R62 step 2).
An edge with RESET or IDLE does not read the buffer (R35). -/
def decode (p : Pins) : Except DecodeError Instr :=
  match selectOperation (opw p) with
  | some o => .ok (o.withSample p.raw)
  | none => .error .noOperation

/-! ### The encoder -/

/-- A buffer of zeros, on the bus of an operation that ignores it. -/
def zeroRaw : RawReport := Vector.replicate 64 0

/-- The pins that present an operation (R61, machine encoding); the pins an operation ignores are 0. -/
def encode : Instr → Pins
  | .reset => { rst := true, inValid := false, raw := zeroRaw }
  | .decodeStatus raw => { rst := false, inValid := true, raw := raw }
  | .decodeMismatch raw => { rst := false, inValid := true, raw := raw }
  | .idle => { rst := false, inValid := false, raw := zeroRaw }

/-! ### The byte form of an edge

OPW as a 16-bit little-endian word (bits 15 to 10 zero), then bytes 1 to 63 of the buffer; `raw[0]` is in OPW
itself.  The spec gives an edge no byte form: this one follows the numbering of the opcode table's bits (log entry 9). -/

/-- The byte form of an edge: 65 bytes. -/
def edgeBytes (p : Pins) : List Byte :=
  (opw p).extractLsb' 0 8 :: ((opw p).extractLsb' 8 2).setWidth 8 :: p.raw.toList.drop 1

/-- The pins whose byte form is `b0`, `b1` and then `rest`; bytes that are missing are 0. -/
def pinsOfBytes (b0 b1 : Byte) (rest : List Byte) : Pins :=
  { rst := b1.getLsbD 1
    inValid := b1.getLsbD 0
    raw := Vector.ofFn fun i => if i.val = 0 then b0 else rest.getD (i.val - 1) 0 }

/-- Read the byte form of an edge, refusing by name what is none. -/
def readEdge : List Byte → Except DecodeError Pins
  | b0 :: b1 :: rest =>
    if b1.toNat < 4 then
      if rest.length ≤ 63 then .ok (pinsOfBytes b0 b1 rest) else .error .tooLong
    else .error .notTenBits
  | _ => .error .tooShort

/-- The decoder on bytes. -/
def decodeBytes (bytes : List Byte) : Except DecodeError Instr :=
  match readEdge bytes with
  | .ok p => decode p
  | .error e => .error e

/-- The encoder to bytes. -/
def encodeBytes (i : Instr) : List Byte := edgeBytes (encode i)

/-- Byte `k` of the low `nbits` bits of `w`, bit 0 being the least significant bit of byte 0. -/
def tableByte (nbits w k : Nat) : Byte :=
  BitVec.ofNat 8 ((w % 2 ^ nbits) >>> (8 * k))

/-- The bytes after the operation word that a table word stands for; the bits above `nbits` are 0. -/
def tableTail (nbits w : Nat) : List Byte :=
  (List.range 63).map fun k => tableByte nbits w (k + 2)

/-- The instruction the decoder reads from a table word. -/
def decodeTableWord (nbits w : Nat) : Option Instr :=
  match decodeBytes (tableByte nbits w 0 :: tableByte nbits w 1 :: tableTail nbits w) with
  | .ok i => some i
  | .error _ => none

/-- The pins that a table word puts before the next edge. -/
def pinsOfTableWord (nbits w : Nat) : Pins :=
  pinsOfBytes (tableByte nbits w 0) (tableByte nbits w 1) (tableTail nbits w)

end Sys2Proof
end

