-- ==== Sys2Proof/Machine/State.lean ====
section
/-! DEFINITION. The state of RDEC (spec/10_state.md rules R15, R20 to R25), its value after reset (R32), and the
reasons a step or a read of an output port can stop. -/

namespace Sys2Proof.Machine

/-- A PositionSpeedSample (R23, R53, R81). -/
structure Sample where
  position : U16
  status   : Byte
  speed    : Byte
deriving DecidableEq, Repr

/-- A StatusReport (R23, R81): every field of the report register when it holds a value. -/
structure StatusReport where
  reportId       : Byte
  declaredLength : Byte
  validWord      : U16
  ref1           : Sample
  ref2           : Sample
  ref3           : Sample
  ref4           : Sample
  ref1cnt        : U16
  ref2cnt        : U16
  ref3cnt        : U16
  ref4cnt        : U16
  ref5           : Sample
  diagnostic     : Vector Byte 8
  undefined1     : Vector Byte 2
  handset1       : U16
  handset2       : U16
  ref6           : Sample
  ref7           : Sample
  ref8           : Sample
  undefined2     : Vector Byte 6
deriving DecidableEq, Repr

/-- The output registers of the wrapper (R15).  `report` is the spec's `R` (R22) and `outErrId` its
`out_err_id` (R24): both hold `none` or a value by the spec's own rules. -/
structure Registers where
  outStatus   : BitVec 2
  outDone     : Bool
  report      : Option StatusReport
  outErrId    : Option Byte
  outNotReady : Bool
deriving DecidableEq, Repr

/-- The state of the machine.
`regs` is `none` in the unknown state of R123 (no reset edge since power-up: no register holds a value), and
`some r` once a reset edge has happened.
`pins` are the levels on the input pins, which the next rising edge samples (R18, R62).
`upcoming` are the levels the host will drive after that edge, one entry per later edge, first one first: the
rest of the host's program (R17).  `pins` and `upcoming` are the host's, not registers of RDEC (log entry 1). -/
structure State where
  regs     : Option Registers
  pins     : Pins
  upcoming : List Pins
deriving DecidableEq, Repr

/-- Why a read of an output port faults.  No operation of RDEC raises any of these: R62 says the step never faults
and "the only model-level fault is a read of a register that holds `none`". -/
inductive Fault where
  /-- Raised by a read of an `out_report_<field>` port while the report register holds no value (R22, R130, U1).
  Safe: no claim can rest on the port's unspecified bits. -/
  | reportHoldsNoValue
  /-- Raised by a read of `out_err_id` while it holds `none` (R24, R130, U2).
  Safe: no claim can rest on the port's unspecified bits. -/
  | errIdHoldsNoValue
  /-- Raised by a read of `out_status` that finds the reserved code 0b11 (R20, U4, D25); no rule writes that code.
  Safe: it gives the reserved code no meaning. -/
  | reservedStatus
deriving DecidableEq, Repr

/-- Why the model gives no answer. -/
inductive Refusal where
  /-- Raised by an arm of `exec` whose instruction has no meaning yet; no arm does.  Safe. -/
  | notModelled (mnemonic : String)
  /-- Raised by a read of any output port before the first reset edge (R123, U3).
  Safe: a claim must take as a premise that reset has been applied. -/
  | noResetYet
  /-- Raised by `step` if no row of the operation map matched the pins; R48 says that never happens.  Safe. -/
  | noOperationSelected
deriving DecidableEq, Repr

/-- The result of reading an output port. -/
inductive ReadResult (α : Type) where
  | value (v : α)
  | fault (why : Fault)
  | refused (why : Refusal)
deriving DecidableEq, Repr

/-- What an operation of R48 answers: its next state, a fault or a refusal. -/
abbrev Outcome := Host.Outcome State Fault Refusal

/-- Pins at rest: no reset, no decode, zeros on the bus.  The spec gives the host's pins no level after reset:
DESIGN CHOICE, log entry 3. -/
def restPins : Pins := { rst := false, inValid := false, raw := zeroRaw }

/-- The machine right after reset: every register at its value of R32, the pins at rest and no program presented. -/
def State.reset : State :=
  { regs := some
      { outStatus := 0b00, outDone := false, report := none, outErrId := none, outNotReady := false }
    pins := restPins
    upcoming := [] }

/-- The machine after power-up, before any reset edge (R123), with a program of edges the host will present. -/
def State.powerUp (pins : Pins) (upcoming : List Pins) : State :=
  { regs := none, pins := pins, upcoming := upcoming }

end Sys2Proof.Machine
end

