-- ==== Sys2Proof/Machine/Operands.lean ====
section
/-! DEFINITION. The field extractors (spec/41_extractors.md): the reads DECODE makes of the sampled buffer, and the
hex digit stream the document describes them by.  Every offset carries the proof that it lies inside the buffer
(R9, R39, R71). -/

namespace Sys2Proof.Machine

/-- `MemRead(a, n)` (R9): the bytes `raw[a]` to `raw[a+n-1]`, defined only inside the buffer. -/
def memRead (raw : RawReport) (a n : Nat) (h : a + n ≤ 64 := by decide) : Vector Byte n :=
  Vector.ofFn fun j => raw[a + j.val]

/-- U8(a) (R73): an unsigned byte. -/
def u8 (raw : RawReport) (a : Nat) (h : a < 64 := by decide) : Byte := raw[a]

/-- U16SW(k) (R38, R55, R74): the byte-swapped 16-bit field, the byte at the higher offset being the high byte. -/
def u16sw (raw : RawReport) (k : Nat) (h : k + 1 < 64 := by decide) : U16 := raw[k + 1] ++ raw[k]

/-- VALID16() (R56, R75): the validFlags word in stream order, or byte-swapped when `VALID_SWAP` is true. -/
def valid16 (swap : Bool) (raw : RawReport) : U16 :=
  if swap then raw[3] ++ raw[2] else raw[2] ++ raw[3]

/-- SAMPLE(a) (R53, R78): position at +0 (byte-swapped), status at +2, speed at +3. -/
def sampleAt (raw : RawReport) (a : Nat) (h : a + 3 < 64 := by decide) : Sample :=
  { position := u16sw raw a (by omega), status := u8 raw (a + 2) (by omega), speed := u8 raw (a + 3) h }

/-- RAWN(a, n) (R57, R79): a block of bytes in offset order, not combined into a number. -/
def rawn (raw : RawReport) (a n : Nat) (h : a + n ≤ 64 := by decide) : Vector Byte n := memRead raw a n h

/-! ### The hex digit stream (R37, R72) -/

/-- HEX (R72): digit `2*i` is the high nibble of byte `i`, digit `2*i + 1` its low nibble. -/
def hexStream (raw : RawReport) : Vector U4 128 :=
  Vector.ofFn fun d =>
    if d.val % 2 = 0 then raw[d.val / 2].extractLsb' 4 4 else raw[d.val / 2].extractLsb' 0 4

/-- Parsing a digit string as base-16 (R72): the sum of `d[j] * 16^(n-1-j)`. -/
def parseBase16 (digits : List U4) : Nat :=
  digits.foldl (fun n d => n * 16 + d.toNat) 0

/-- The digit range `[lo, hi)` of the hex digit stream (R51, R72). -/
def digitRange (raw : RawReport) (lo hi : Nat) : List U4 :=
  ((hexStream raw).toList.take hi).drop lo

end Sys2Proof.Machine
end

