-- ==== Sys2Proof/Machine/Flags.lean ====
section
/-! DEFINITION. The flag computations: the ValidFlagSet (R76), the StatusFlags of a status byte (R77), the
not-ready signature (R105), and the names of the `out_status` codes (R20). -/

namespace Sys2Proof.Machine

/-- FLAGS16(w) (R27, R76): flag `i`, counted from the most significant bit, is `w[15 - i]`.
The flags have no names: the document's table is lost (N1). -/
def flags16 (w : U16) : Vector Bool 16 :=
  Vector.ofFn fun i => w.getLsbD (15 - i.val)

/-- The StatusFlags of a sample (R28, R77). -/
structure StatusFlags where
  positionLost  : Bool
  antiCollision : Bool
  overloadDown  : Bool
  overloadUp    : Bool
  unknown       : U4
deriving DecidableEq, Repr

/-- STATUS8(s) (R77): the high four bits are the named flags, the low nibble is `unknown`. -/
def status8 (s : Byte) : StatusFlags :=
  { positionLost  := s.getLsbD 7
    antiCollision := s.getLsbD 6
    overloadDown  := s.getLsbD 5
    overloadUp    := s.getLsbD 4
    unknown       := s.extractLsb' 0 4 }

/-- NOT_READY(raw) (R105): identifier and declared length match and every byte from 2 up to `NOT_READY_END`,
exclusive, is zero.  The polarity is the document's (U15). -/
def notReady (raw : RawReport) : Bool :=
  raw[0] == Config.statusId && raw[1] == Config.notReadyLen &&
    decide (∀ i : Fin 64, 2 ≤ i.val → i.val < Config.notReadyEnd → raw[i] = 0)

/-- The names of the `out_status` codes (R20). -/
inductive Status where
  | empty
  | ok
  | mismatch
deriving DecidableEq, Repr

/-- The code of a status (R20). -/
def Status.code : Status → BitVec 2
  | .empty => 0b00
  | .ok => 0b01
  | .mismatch => 0b10

/-- The status a code names; 0b11 is reserved and names none (R20, U4). -/
def Status.ofCode (c : BitVec 2) : Option Status :=
  if c = 0b00 then some .empty
  else if c = 0b01 then some .ok
  else if c = 0b10 then some .mismatch
  else none

end Sys2Proof.Machine
end

