-- ==== Sys2Proof/Machine/Report.lean ====
section
/-! DEFINITION. DECODE, the combinational core (spec/40_operations.md rule R66), the report layout (R51) with the
fields by name, the views of a report (R27, R28), and the buffer rebuilt from a report (R102). -/

namespace Sys2Proof.Machine

/-- The result of DECODE (R12): a complete report, or the identifier that failed the check. -/
inductive DecodeResult where
  | ok (r : StatusReport)
  | mismatch (actual : Byte)
deriving DecidableEq, Repr

/-- Every field of the report, each by its extractor at its offset (R51, R66, R82 to R101). -/
def reportOf (swap : Bool) (raw : RawReport) : StatusReport :=
  { reportId       := u8 raw 0
    declaredLength := u8 raw 1
    validWord      := valid16 swap raw
    ref1           := sampleAt raw 4
    ref2           := sampleAt raw 8
    ref3           := sampleAt raw 12
    ref4           := sampleAt raw 16
    ref1cnt        := u16sw raw 20
    ref2cnt        := u16sw raw 22
    ref3cnt        := u16sw raw 24
    ref4cnt        := u16sw raw 26
    ref5           := sampleAt raw 28
    diagnostic     := rawn raw 32 8
    undefined1     := rawn raw 40 2
    handset1       := u16sw raw 42
    handset2       := u16sw raw 44
    ref6           := sampleAt raw 46
    ref7           := sampleAt raw 50
    ref8           := sampleAt raw 54
    undefined2     := rawn raw 58 6 }

/-- DECODE(raw) (R66): the identifier check comes first, and a mismatching buffer gives no field. -/
def decodeReport (swap : Bool) (raw : RawReport) : DecodeResult :=
  if raw[0] = Config.statusId then .ok (reportOf swap raw) else .mismatch raw[0]

/-! ### The fields of a report by name (R23, R51) -/

/-- The fields of a StatusReport: one `out_report_<field>` port each (R18). -/
inductive ReportField where
  | reportId | declaredLength | validWord
  | ref1 | ref2 | ref3 | ref4
  | ref1cnt | ref2cnt | ref3cnt | ref4cnt
  | ref5 | diagnostic | undefined1 | handset1 | handset2
  | ref6 | ref7 | ref8 | undefined2
deriving DecidableEq, Repr

/-- All fields, in the order of the layout (R51). -/
def ReportField.all : List ReportField :=
  [.reportId, .declaredLength, .validWord, .ref1, .ref2, .ref3, .ref4,
   .ref1cnt, .ref2cnt, .ref3cnt, .ref4cnt, .ref5, .diagnostic, .undefined1,
   .handset1, .handset2, .ref6, .ref7, .ref8, .undefined2]

/-- The first byte of a field's range in the buffer (R51). -/
def ReportField.offset : ReportField → Nat
  | .reportId => 0
  | .declaredLength => 1
  | .validWord => 2
  | .ref1 => 4
  | .ref2 => 8
  | .ref3 => 12
  | .ref4 => 16
  | .ref1cnt => 20
  | .ref2cnt => 22
  | .ref3cnt => 24
  | .ref4cnt => 26
  | .ref5 => 28
  | .diagnostic => 32
  | .undefined1 => 40
  | .handset1 => 42
  | .handset2 => 44
  | .ref6 => 46
  | .ref7 => 50
  | .ref8 => 54
  | .undefined2 => 58

/-- The number of bytes of a field; its port has 8 times as many bits (R18, R23, R51). -/
def ReportField.bytes : ReportField → Nat
  | .reportId | .declaredLength => 1
  | .validWord | .ref1cnt | .ref2cnt | .ref3cnt | .ref4cnt | .undefined1 | .handset1 | .handset2 => 2
  | .ref1 | .ref2 | .ref3 | .ref4 | .ref5 | .ref6 | .ref7 | .ref8 => 4
  | .undefined2 => 6
  | .diagnostic => 8

/-- The value of a field: the shapes of R23. -/
inductive FieldValue where
  | byte (b : Byte)
  | word (w : U16)
  | sample (s : Sample)
  | block (bytes : List Byte)
deriving DecidableEq, Repr

/-- The value of a report's field. -/
def StatusReport.field (r : StatusReport) : ReportField → FieldValue
  | .reportId => .byte r.reportId
  | .declaredLength => .byte r.declaredLength
  | .validWord => .word r.validWord
  | .ref1 => .sample r.ref1
  | .ref2 => .sample r.ref2
  | .ref3 => .sample r.ref3
  | .ref4 => .sample r.ref4
  | .ref1cnt => .word r.ref1cnt
  | .ref2cnt => .word r.ref2cnt
  | .ref3cnt => .word r.ref3cnt
  | .ref4cnt => .word r.ref4cnt
  | .ref5 => .sample r.ref5
  | .diagnostic => .block r.diagnostic.toList
  | .undefined1 => .block r.undefined1.toList
  | .handset1 => .word r.handset1
  | .handset2 => .word r.handset2
  | .ref6 => .sample r.ref6
  | .ref7 => .sample r.ref7
  | .ref8 => .sample r.ref8
  | .undefined2 => .block r.undefined2.toList

/-- The samples by number: index `n` is ref`n+1` (R28). -/
def StatusReport.samples (r : StatusReport) : Vector Sample 8 :=
  #v[r.ref1, r.ref2, r.ref3, r.ref4, r.ref5, r.ref6, r.ref7, r.ref8]

/-- The counters by number: index `n` is ref`n+1`cnt (R23). -/
def StatusReport.counters (r : StatusReport) : Vector U16 4 :=
  #v[r.ref1cnt, r.ref2cnt, r.ref3cnt, r.ref4cnt]

/-- The ValidFlagSet view (R27). -/
def StatusReport.valid (r : StatusReport) : Vector Bool 16 := flags16 r.validWord

/-- The StatusFlags view of a sample (R28). -/
def Sample.flags (s : Sample) : StatusFlags := status8 s.status

/-! ### The buffer rebuilt from a report (R102) -/

/-- Bits 7 to 0 of a 16-bit value, the byte a swapped field has first (R38, R102). -/
def lowByte (w : U16) : Byte := w.extractLsb' 0 8

/-- Bits 15 to 8 of a 16-bit value, the byte a swapped field has second (R38, R102). -/
def highByte (w : U16) : Byte := w.extractLsb' 8 8

/-- The buffer rebuilt from a report, byte by byte in the order of the layout (R51, R102); the validFlags word goes
back in the order VALID16 reads it (R75). -/
def StatusReport.toRaw (swap : Bool) (r : StatusReport) : RawReport :=
  #v[r.reportId, r.declaredLength,
     (if swap then lowByte r.validWord else highByte r.validWord),
     (if swap then highByte r.validWord else lowByte r.validWord),
     lowByte r.ref1.position, highByte r.ref1.position, r.ref1.status, r.ref1.speed,
     lowByte r.ref2.position, highByte r.ref2.position, r.ref2.status, r.ref2.speed,
     lowByte r.ref3.position, highByte r.ref3.position, r.ref3.status, r.ref3.speed,
     lowByte r.ref4.position, highByte r.ref4.position, r.ref4.status, r.ref4.speed,
     lowByte r.ref1cnt, highByte r.ref1cnt, lowByte r.ref2cnt, highByte r.ref2cnt,
     lowByte r.ref3cnt, highByte r.ref3cnt, lowByte r.ref4cnt, highByte r.ref4cnt,
     lowByte r.ref5.position, highByte r.ref5.position, r.ref5.status, r.ref5.speed,
     r.diagnostic[0], r.diagnostic[1], r.diagnostic[2], r.diagnostic[3],
     r.diagnostic[4], r.diagnostic[5], r.diagnostic[6], r.diagnostic[7],
     r.undefined1[0], r.undefined1[1],
     lowByte r.handset1, highByte r.handset1, lowByte r.handset2, highByte r.handset2,
     lowByte r.ref6.position, highByte r.ref6.position, r.ref6.status, r.ref6.speed,
     lowByte r.ref7.position, highByte r.ref7.position, r.ref7.status, r.ref7.speed,
     lowByte r.ref8.position, highByte r.ref8.position, r.ref8.status, r.ref8.speed,
     r.undefined2[0], r.undefined2[1], r.undefined2[2], r.undefined2[3], r.undefined2[4], r.undefined2[5]]

end Sys2Proof.Machine
end

