-- ==== Sys2Proof/Machine/Ops.lean ====
section
/-! DEFINITION. The named operations over the registers (spec/10_state.md rule R33), the decode failure
(spec/60_exceptions.md rule R110), and what the host does to the pins between two edges.
RDEC has no memory to write (R9, R36), no trap entry and no return operation (R112, R113). -/

namespace Sys2Proof.Machine

/-- Write the whole register set at one edge, all registers together (R10, R44).
Before the first reset edge every register stays unspecified, whatever the edge does (R123, R124, D21):
DEDUCED, log entry 2. -/
def State.writeRegisters (s : State) (f : Registers → Registers) : State :=
  { s with regs := s.regs.map f }

/-- A reset edge gives every register a value, from the unknown state too (R32, R63, R124). -/
def State.applyReset (s : State) : State :=
  { s with
    regs := some
      { outStatus := Status.code .empty
        outDone := false
        report := none
        outErrId := none
        outNotReady := false } }

/-- The IDLE row of R33: `out_done` is cleared and every other register holds. -/
def State.holdRegisters (s : State) : State :=
  s.writeRegisters fun r => { r with outDone := false }

/-- The DECODE_STATUS row of R33: the register set takes a complete report and the signature bit. -/
def State.acceptReport (s : State) (report : StatusReport) (signature : Bool) : State :=
  s.writeRegisters fun _ =>
    { outStatus := Status.code .ok, outDone := true, report := some report, outErrId := none,
      outNotReady := signature }

/-- Taking the decode failure `ProtocolMismatch(actual)`, RDEC's only exception (R110): the status says MISMATCH,
the actual identifier is recorded, and the report register holds no value.  Nothing else is saved (R112), and the
next edge leaves the failure like any other state (R113). -/
def State.takeProtocolMismatch (s : State) (actual : Byte) : State :=
  s.writeRegisters fun _ =>
    { outStatus := Status.code .mismatch, outDone := true, report := none, outErrId := some actual,
      outNotReady := false }

/-- Between two edges the host drives the next levels of its program; with no program left the pins keep their
levels.  DESIGN CHOICE, log entry 4: the spec leaves the pins to the host. -/
def State.advancePins (s : State) : State :=
  match s.upcoming with
  | [] => s
  | p :: ps => { s with pins := p, upcoming := ps }

end Sys2Proof.Machine
end

