-- ==== Sys2Proof/Machine/Control.lean ====
section
/-! DEFINITION. The operations that read no buffer: RESET (R63) and IDLE (R64). -/

namespace Sys2Proof.Machine

/-- RESET (R63, R122): every register takes its reset value, whatever the state before; the pins `in_valid` and
`raw_bus` are ignored. -/
def execReset (s : State) : Outcome := .next s.applyReset

/-- IDLE (R64): `out_done` becomes 0 and every other register holds. -/
def execIdle (s : State) : Outcome := .next s.holdRegisters

end Sys2Proof.Machine
end

