-- ==== Sys2Proof/Machine/Decoding.lean ====
section
/-! DEFINITION. The operations that decode the sampled buffer: DECODE_STATUS (R65) and DECODE_MISMATCH (R67). -/

namespace Sys2Proof.Machine

/-- DECODE_STATUS (R65): the registers take the report of DECODE(raw) and the signature NOT_READY(raw).
For an operation the pins select, DECODE always gives OK; a term whose buffer has another identifier is not well
formed, and DECODE's own outcome for it is the failure (R66). -/
def execDecodeStatus (raw : RawReport) (s : State) : Outcome :=
  match decodeReport Config.validSwap raw with
  | .ok r => .next (s.acceptReport r (notReady raw))
  | .mismatch actual => .next (s.takeProtocolMismatch actual)

/-- DECODE_MISMATCH (R67): the decode failure, with the identifier byte recorded; bytes 1 to 63 have no effect. -/
def execDecodeMismatch (raw : RawReport) (s : State) : Outcome :=
  .next (s.takeProtocolMismatch raw[0])

end Sys2Proof.Machine
end

