-- ==== Sys2Proof/Machine/Dispatch.lean ====
section
/-! DEFINITION. One arm per operation. -/

namespace Sys2Proof.Machine
open Sys2Proof

/-- The effect of one operation on the state. -/
def exec (i : Instr) (s : State) : Host.Outcome State Fault Refusal :=
  match i with
  | .reset => Sys2Proof.Machine.execReset s
  | .decodeStatus raw => Sys2Proof.Machine.execDecodeStatus raw s
  | .decodeMismatch raw => Sys2Proof.Machine.execDecodeMismatch raw s
  | .idle => Sys2Proof.Machine.execIdle s

end Sys2Proof.Machine
end

