-- ==== Sys2Proof/Machine/Step.lean ====
section
/-! DEFINITION. One rising edge of `clk` (spec/40_operations.md rule R62). -/

namespace Sys2Proof.Machine

/-- One edge (R62): sample the pins, select the operation, write its registers; then the host drives the levels of
its next edge. -/
def step (s : State) : Host.Outcome State Fault Refusal :=
  match decode s.pins with
  | .error _ => .refused .noOperationSelected
  | .ok i =>
    match exec i s with
    | .next t => .next t.advancePins
    | .fault why => .fault why
    | .refused why => .refused why

/-- The state with a table word on the pins, where the next edge samples its operation (log entry 9). -/
def State.withFetchWord (s : State) (nbits w : Nat) : State :=
  { s with pins := pinsOfTableWord nbits w }

end Sys2Proof.Machine
end

