-- ==== Sys2Proof/Machine/Ports.lean ====
section
/-! DEFINITION. What the host reads on the output ports (spec/10_state.md rules R18 to R28): each port shows its
register (R26); a register that holds no value faults on the read (R22, R24, R130), and before the first reset
edge every read is refused (R123). -/

namespace Sys2Proof.Machine

/-- Read a register through its port: refused before the first reset edge (R123). -/
def State.readPort {α : Type} (s : State) (port : Registers → ReadResult α) : ReadResult α :=
  match s.regs with
  | some r => port r
  | none => .refused .noResetYet

/-- The `out_status` port (R20); the reserved code faults (U4, D25). -/
def Registers.statusPort (r : Registers) : ReadResult Status :=
  match Status.ofCode r.outStatus with
  | some st => .value st
  | none => .fault .reservedStatus

/-- The `out_err_id` port (R24). -/
def Registers.errIdPort (r : Registers) : ReadResult Byte :=
  match r.outErrId with
  | some b => .value b
  | none => .fault .errIdHoldsNoValue

/-- The report register read as a whole (R22). -/
def Registers.reportPort (r : Registers) : ReadResult StatusReport :=
  match r.report with
  | some rep => .value rep
  | none => .fault .reportHoldsNoValue

/-- A view of the report register: it faults exactly when the register holds no value (R22). -/
def Registers.reportView {α : Type} (r : Registers) (view : StatusReport → α) : ReadResult α :=
  match r.reportPort with
  | .value rep => .value (view rep)
  | .fault why => .fault why
  | .refused why => .refused why

/-- Read `out_status`. -/
def readStatus (s : State) : ReadResult Status := s.readPort Registers.statusPort

/-- Read `out_done` (R21). -/
def readDone (s : State) : ReadResult Bool := s.readPort fun r => .value r.outDone

/-- Read `out_not_ready` (R25). -/
def readNotReady (s : State) : ReadResult Bool := s.readPort fun r => .value r.outNotReady

/-- Read `out_err_id`. -/
def readErrId (s : State) : ReadResult Byte := s.readPort Registers.errIdPort

/-- Read the port `out_report_<field>` (R18). -/
def readReportField (s : State) (f : ReportField) : ReadResult FieldValue :=
  s.readPort fun r => r.reportView fun rep => rep.field f

/-- Read flag `valid[i]` of the ValidFlagSet view (R27). -/
def readValidFlag (s : State) (i : Fin 16) : ReadResult Bool :=
  s.readPort fun r => r.reportView fun rep => rep.valid[i]

/-- Read the StatusFlags view of sample ref`n+1` (R28). -/
def readStatusFlags (s : State) (n : Fin 8) : ReadResult StatusFlags :=
  s.readPort fun r => r.reportView fun rep => rep.samples[n].flags

end Sys2Proof.Machine
end

