-- ==== Sys2Proof/Machine/Text.lean ====
section
/-! DEFINITION. The textual syntax of operations (spec/30_encoding.md rule R61): one operation a line, one line an
edge.  Text is a list of characters. -/

namespace Sys2Proof.Machine

/-- Apply a partial function to every element; none if it fails on one. -/
def mapAll {α β : Type} (f : α → Option β) : List α → Option (List β)
  | [] => some []
  | x :: xs =>
    match f x, mapAll f xs with
    | some y, some ys => some (y :: ys)
    | _, _ => none

/-- The value of a hex digit, in upper or lower case (R11, G1). -/
def hexValue (c : Char) : Option U4 :=
  let n := c.toNat
  if 48 ≤ n ∧ n ≤ 57 then some (BitVec.ofNat 4 (n - 48))
  else if 65 ≤ n ∧ n ≤ 70 then some (BitVec.ofNat 4 (n - 55))
  else if 97 ≤ n ∧ n ≤ 102 then some (BitVec.ofNat 4 (n - 87))
  else none

/-- A digit written in upper case (R61 allows both cases; the printer uses the spec's). -/
def hexChar (d : U4) : Char :=
  if d.toNat < 10 then Char.ofNat (d.toNat + 48) else Char.ofNat (d.toNat + 55)

/-- The buffer of a stream of 128 digits: byte `i` is digit `2*i` and then digit `2*i + 1` (R72). -/
def rawOfDigits (digits : List U4) : Option RawReport :=
  if digits.length = 128 then
    some (Vector.ofFn fun i => digits.getD (2 * i.val) 0 ++ digits.getD (2 * i.val + 1) 0)
  else none

/-- The end of a buffer text that asks for zero padding (R61). -/
def paddingMark : List Char := ['.', '.', '0']

/-- The buffer of a text: 128 hex digits, or fewer than 128 followed by `..0`, padded with zeros (R61). -/
def parseBuffer (text : List Char) : Option RawReport :=
  let n := text.length - 3
  if text.drop n = paddingMark then
    match mapAll hexValue (text.take n) with
    | some digits =>
      if digits.length < 128 then rawOfDigits (digits ++ List.replicate (128 - digits.length) 0) else none
    | none => none
  else
    match mapAll hexValue text with
    | some digits => rawOfDigits digits
    | none => none

/-- The pseudo-instruction DECODE (R61): DECODE_STATUS when the identifier is `STATUS_ID`, else DECODE_MISMATCH. -/
def decodeOperation (raw : RawReport) : Instr :=
  if raw[0] = Config.statusId then .decodeStatus raw else .decodeMismatch raw

/-- The word `RESET`. -/
def resetText : List Char := ['R', 'E', 'S', 'E', 'T']

/-- The word `IDLE`. -/
def idleText : List Char := ['I', 'D', 'L', 'E']

/-- The word `DECODE` and the blank after it. -/
def decodeText : List Char := ['D', 'E', 'C', 'O', 'D', 'E', ' ']

/-- The operation of one line (R61). -/
def parseLine (line : List Char) : Option Instr :=
  if line = resetText then some .reset
  else if line = idleText then some .idle
  else if line.take 7 = decodeText then (parseBuffer (line.drop 7)).map decodeOperation
  else none

/-- A buffer as 128 hex digits, byte 0 first, high digit first (R61, R72). -/
def printBuffer (raw : RawReport) : List Char :=
  raw.toList.flatMap fun b => [hexChar (b.extractLsb' 4 4), hexChar (b.extractLsb' 0 4)]

/-- The line of an operation (R61). -/
def printLine : Instr → List Char
  | .reset => resetText
  | .decodeStatus raw => decodeText ++ printBuffer raw
  | .decodeMismatch raw => decodeText ++ printBuffer raw
  | .idle => idleText

/-- The lines of a text, split at each line end. -/
def splitLines : List Char → List (List Char)
  | [] => [[]]
  | '\n' :: cs => [] :: splitLines cs
  | c :: cs =>
    match splitLines cs with
    | [] => [[c]]
    | l :: ls => (c :: l) :: ls

/-- A program text: one operation a line, one line an edge (R17, R61), with no blank line. -/
def parseProgram (text : List Char) : Option (List Instr) := mapAll parseLine (splitLines text)

/-- The edges a program presents, as the levels on the pins (R17, R61). -/
def presentProgram (program : List Instr) : List Pins := program.map encode

end Sys2Proof.Machine
end

