-- ==== Sys2Proof/Safety.lean ====
section
/-! DEFINITION. What a legal register set of RDEC is: the whole-machine rules of the spec that every edge keeps. -/

namespace Sys2Proof.Machine

/-- A reset edge has been applied since power-up (R123, R124). -/
def State.ResetApplied (s : State) : Prop := s.regs.isSome = true

/-- A report that carries the not-ready signature (R109): the declared length is 56, the first byte of undefined2
is zero, and every field but the identifier and the rest of undefined2 is zero. -/
structure StatusReport.Blank (r : StatusReport) : Prop where
  declaredLength : r.declaredLength = Config.notReadyLen
  validWord      : r.validWord = 0
  samples        : ∀ n : Fin 8, r.samples[n] = { position := 0, status := 0, speed := 0 }
  counters       : ∀ n : Fin 4, r.counters[n] = 0
  handset1       : r.handset1 = 0
  handset2       : r.handset2 = 0
  diagnostic     : r.diagnostic = Vector.replicate 8 0
  undefined1     : r.undefined1 = Vector.replicate 2 0
  undefined2     : r.undefined2[0] = 0

/-- The register set is one the rules allow. -/
structure Registers.Legal (r : Registers) : Prop where
  /-- `out_status` is never the reserved code (R20, R29). -/
  statusNotReserved : r.outStatus ≠ 0b11
  /-- `R` holds a value exactly when `out_status` = OK (R22). -/
  reportIffOk : r.report.isSome = true ↔ r.outStatus = Status.code .ok
  /-- `out_err_id` holds a value exactly when `out_status` = MISMATCH (R24, R33). -/
  errIdIffMismatch : r.outErrId.isSome = true ↔ r.outStatus = Status.code .mismatch
  /-- Every report RDEC produces carries the status command id (R103). -/
  reportIdIsStatusId : ∀ rep, r.report = some rep → rep.reportId = Config.statusId
  /-- The identifier recorded on a failure is not the status command id (R110). -/
  errIdIsNotStatusId : ∀ b, r.outErrId = some b → b ≠ Config.statusId
  /-- `out_not_ready` is 1 exactly when the report held carries the signature (R106, R107, R109). -/
  notReadyIffBlank : r.outNotReady = true ↔ ∃ rep, r.report = some rep ∧ rep.Blank
  /-- `out_done` is 1 only after an accepted decode (R21). -/
  doneNeedsDecode : r.outDone = true → r.outStatus ≠ Status.code .empty

/-- The invariant of the machine: once a reset edge has happened, the register set is legal. -/
def State.Inv (s : State) : Prop := ∀ r, s.regs = some r → r.Legal

end Sys2Proof.Machine
end

