-- ==== Sys2Proof/Certificates/Slice0/Obligations.lean ====
section
/-! DEFINITION. The statements for the provers, each citing the rule of spec/ it formalises. -/

namespace Sys2Proof.Stated
open Sys2Proof.Machine

/-- The sample at offset `a`, written out in bytes (R53, R78). -/
def sampleBytes (raw : RawReport) (a : Nat) (h : a + 3 < 64 := by decide) : Sample :=
  { position := raw[a + 1] ++ raw[a], status := raw[a + 2], speed := raw[a + 3] }

/-- The report of a buffer written out in bytes, offset by offset, from R51 and R82 to R101. -/
def reportBytes (swap : Bool) (raw : RawReport) : StatusReport :=
  { reportId       := raw[0]
    declaredLength := raw[1]
    validWord      := if swap then raw[3] ++ raw[2] else raw[2] ++ raw[3]
    ref1           := sampleBytes raw 4
    ref2           := sampleBytes raw 8
    ref3           := sampleBytes raw 12
    ref4           := sampleBytes raw 16
    ref1cnt        := raw[21] ++ raw[20]
    ref2cnt        := raw[23] ++ raw[22]
    ref3cnt        := raw[25] ++ raw[24]
    ref4cnt        := raw[27] ++ raw[26]
    ref5           := sampleBytes raw 28
    diagnostic     := #v[raw[32], raw[33], raw[34], raw[35], raw[36], raw[37], raw[38], raw[39]]
    undefined1     := #v[raw[40], raw[41]]
    handset1       := raw[43] ++ raw[42]
    handset2       := raw[45] ++ raw[44]
    ref6           := sampleBytes raw 46
    ref7           := sampleBytes raw 50
    ref8           := sampleBytes raw 54
    undefined2     := #v[raw[58], raw[59], raw[60], raw[61], raw[62], raw[63]] }

/-- The not-ready signature of R105: byte 0 is 0x04, byte 1 is 56, and bytes 2 to 58 are zero. -/
def Signature (raw : RawReport) : Prop :=
  raw[0] = 0x04 ∧ raw[1] = 56 ∧ ∀ (i : Nat) (h : i < 64), 2 ≤ i → i < 59 → raw[i] = 0

/-- The registers after a reset edge (R32). -/
def resetRegisters : Registers :=
  { outStatus := 0b00, outDone := false, report := none, outErrId := none, outNotReady := false }

/-- The registers after a DECODE_MISMATCH edge (R33, R67). -/
def mismatchRegisters (actual : Byte) : Registers :=
  { outStatus := 0b10, outDone := true, report := none, outErrId := some actual, outNotReady := false }

/-- The registers after a DECODE_STATUS edge (R33, R65). -/
def okRegisters (rep : StatusReport) (signature : Bool) : Registers :=
  { outStatus := 0b01, outDone := true, report := some rep, outErrId := none, outNotReady := signature }

end Sys2Proof.Stated

open Sys2Proof Sys2Proof.Machine Sys2Proof.Stated

/-! ### The four operations -/

/-- R63: RESET is selected by `rst` alone, and writes every register with its reset value, from every state (the
unknown state before the first reset edge among them); the host's pins are left alone. -/
def Obligations.ResetWritesResetValues : Prop :=
  (∀ p : Pins, p.rst = true → (opw p).getLsbD 9 = true ∧ decode p = .ok .reset) ∧
  (∀ s : State, exec .reset s = .next { s with regs := some resetRegisters }) ∧
  (∀ s t : State, exec .reset s = .next t → exec .reset t = .next t)

/-- R64: IDLE is selected by `rst` = 0 and `in_valid` = 0, and writes `out_done` only; a run of IDLE
edges that the host presents (the pins and the next `n` levels of its program) leaves every other register as it
was, for as long as it lasts. -/
def Obligations.IdleClearsDoneOnly : Prop :=
  (∀ p : Pins, p.rst = false → p.inValid = false →
    (opw p).extractLsb' 8 2 = 0b00 ∧ decode p = .ok .idle) ∧
  (∀ (s : State) (r : Registers), s.regs = some r →
    exec .idle s = .next { s with regs := some { r with outDone := false } }) ∧
  (∀ (n : Nat) (s : State) (r : Registers), s.regs = some r → n ≤ s.upcoming.length →
    (∀ p ∈ s.pins :: s.upcoming.take n, p.rst = false ∧ p.inValid = false) →
    ∃ t, core.run (n + 1) s = .next t ∧ t.regs = some { r with outDone := false })

/-- R65: DECODE_STATUS is selected by OPW = 0x104, and writes the report of the sample, every field given by its
bytes; the previous registers have no influence. -/
def Obligations.DecodeStatusWritesTheReport : Prop :=
  (∀ p : Pins, p.rst = false → p.inValid = true → p.raw[0] = 0x04 →
    opw p = 0x104 ∧ decode p = .ok (.decodeStatus p.raw)) ∧
  (∀ (raw : RawReport) (s : State) (r : Registers), raw[0] = 0x04 → s.regs = some r →
    ∃ signature : Bool, (signature = true ↔ Signature raw) ∧
      exec (.decodeStatus raw) s =
        .next { s with regs := some (okRegisters (reportBytes Config.validSwap raw) signature) })

/-- R67: DECODE_MISMATCH is selected by `rst` = 0, `in_valid` = 1 and another identifier, and records that byte;
no report is kept and bytes 1 to 63 have no effect. -/
def Obligations.DecodeMismatchRecordsTheIdentifier : Prop :=
  (∀ p : Pins, p.rst = false → p.inValid = true → p.raw[0] ≠ 0x04 →
    (opw p).extractLsb' 8 2 = 0b01 ∧ decode p = .ok (.decodeMismatch p.raw)) ∧
  (∀ (raw : RawReport) (s : State) (r : Registers), raw[0] ≠ 0x04 → s.regs = some r →
    exec (.decodeMismatch raw) s = .next { s with regs := some (mismatchRegisters raw[0]) })

/-- R33: which operation writes which register, edge by edge from the pins, once a reset edge has been applied. -/
def Obligations.RegisterWriteTable : Prop :=
  ∀ (s : State) (r : Registers), s.regs = some r →
    (s.pins.rst = true →
      ∃ t, step s = .next t ∧ t.regs = some resetRegisters) ∧
    (s.pins.rst = false → s.pins.inValid = false →
      ∃ t, step s = .next t ∧ t.regs = some { r with outDone := false }) ∧
    (s.pins.rst = false → s.pins.inValid = true → s.pins.raw[0] = 0x04 →
      ∃ t rep, step s = .next t ∧ decodeReport Config.validSwap s.pins.raw = .ok rep ∧
        t.regs = some (okRegisters rep (notReady s.pins.raw))) ∧
    (s.pins.rst = false → s.pins.inValid = true → s.pins.raw[0] ≠ 0x04 →
      ∃ t, step s = .next t ∧ t.regs = some (mismatchRegisters s.pins.raw[0]))

/-! ### Selecting the operation of an edge -/

/-- R47: the ten bits of OPW, and only OPW decides which operation an edge performs. -/
def Obligations.OperationWordIsThePins : Prop :=
  (∀ p : Pins, (opw p).getLsbD 9 = p.rst ∧ (opw p).getLsbD 8 = p.inValid ∧
    (opw p).extractLsb' 0 8 = p.raw[0]) ∧
  (∀ (p q : Pins) (o : Operation), opw p = opw q → decode p = .ok (o.withSample p.raw) →
    decode q = .ok (o.withSample q.raw))

/-- R48: the rows are tried in priority order, the first that matches is the operation, and every operation word
selects exactly one. -/
def Obligations.OperationMapInPriorityOrder : Prop :=
  ∀ w : BitVec 10,
    selectOperation w =
      (if w &&& 0x200 = 0x200 then some .reset
       else if w &&& 0x3FF = 0x104 then some .decodeStatus
       else if w &&& 0x300 = 0x100 then some .decodeMismatch
       else if w &&& 0x300 = 0x000 then some .idle
       else none) ∧
    (selectOperation w).isSome = true

/-- The step of R62 as the model arranges it: when the pins decode to an operation, the edge is `exec` of it at
that state, and then the host drives the levels of its next edge (or keeps the old ones: log entry 4). -/
def Obligations.StepRunsTheDecodedOperation : Prop :=
  ∀ (s : State) (i : Instr), decode s.pins = .ok i →
    (∀ t, exec i s = .next t →
      (s.upcoming = [] → step s = .next t) ∧
      (∀ p ps, s.upcoming = p :: ps → step s = .next { t with pins := p, upcoming := ps })) ∧
    (∀ why, exec i s = .fault why → step s = .fault why) ∧
    (∀ why, exec i s = .refused why → step s = .refused why)

/-- R26: every edge performs exactly one operation and is never stalled or refused, no path runs from an input pin
to an output port, and each port shows the value its register holds. -/
def Obligations.EveryEdgeCompletes : Prop :=
  (∀ s : State, ∃ i t, decode s.pins = .ok i ∧ i.wellFormed = true ∧ step s = .next t) ∧
  (∀ (s : State) (p : Pins) (ps : List Pins),
    readStatus { s with pins := p, upcoming := ps } = readStatus s ∧
    readDone { s with pins := p, upcoming := ps } = readDone s ∧
    readNotReady { s with pins := p, upcoming := ps } = readNotReady s ∧
    readErrId { s with pins := p, upcoming := ps } = readErrId s ∧
    ∀ f, readReportField { s with pins := p, upcoming := ps } f = readReportField s f) ∧
  (∀ (s : State) (r : Registers), s.regs = some r →
    (∀ st, r.outStatus = Status.code st → readStatus s = .value st) ∧
    readDone s = .value r.outDone ∧ readNotReady s = .value r.outNotReady ∧
    (∀ b, r.outErrId = some b → readErrId s = .value b) ∧
    (∀ rep f, r.report = some rep → readReportField s f = .value (rep.field f)))

/-- A few table words, written out bit by bit from R47 and R48: 1_0_00000000 is RESET, 0_0_00000100 is IDLE,
0_1_00000100 is DECODE_STATUS, 0_1_00000101 and 0_1_10000100 are DECODE_MISMATCH.  That a word comes as two bytes
and that bytes 1 to 63, which it does not give, are zeros is the model's choice (the byte form of an edge, log
entry 9). -/
def Obligations.TableWordsDecode : Prop :=
  decodeTableWord 16 0b1000000000 = some .reset ∧
  decodeTableWord 16 0b0000000100 = some .idle ∧
  decodeTableWord 16 0b0100000100 = some (.decodeStatus (zeroRaw.set 0 0x04)) ∧
  decodeTableWord 16 0b0100000101 = some (.decodeMismatch (zeroRaw.set 0 0x05)) ∧
  decodeTableWord 16 0b0110000100 = some (.decodeMismatch (zeroRaw.set 0 0x84))

/-- The byte form of an edge (the model's own, log entry 9): a table word that decodes is what the next edge runs
once it stands on the pins. -/
def Obligations.FetchedWordIsTheNextOperation : Prop :=
  ∀ (s : State) (nbits w : Nat) (i : Instr), decodeTableWord nbits w = some i →
    decode (s.withFetchWord nbits w).pins = .ok i ∧
    (s.withFetchWord nbits w).regs = s.regs ∧ (s.withFetchWord nbits w).upcoming = s.upcoming

/-- Decode and encode agree on bytes, for every well-formed operation with every buffer. -/
def Obligations.DecodeOfEncodeBytes : Prop :=
  ∀ i : Instr, i.wellFormed = true →
    (encodeBytes i).length = 65 ∧ decodeBytes (encodeBytes i) = .ok i

/-- The other direction: what an edge decodes to is well formed, and presenting it again gives the same operation;
a decode edge is encoded by the very pins it came from. -/
def Obligations.EncodeOfDecode : Prop :=
  ∀ (p : Pins) (i : Instr), decode p = .ok i →
    i.wellFormed = true ∧ decode (encode i) = .ok i ∧
    (p.rst = false → p.inValid = true → encode i = p)

/-- R19: byte `i` of the buffer is carried on `raw_bus[8*i+7 : 8*i]`, and the packing loses nothing. -/
def Obligations.BusPacking : Prop :=
  (∀ (raw : RawReport) (i : Nat) (h : i < 64), (busOfRaw raw).extractLsb' (8 * i) 8 = raw[i]) ∧
  (∀ (bus : BitVec 512) (i : Nat) (h : i < 64), (rawOfBus bus)[i] = bus.extractLsb' (8 * i) 8) ∧
  (∀ raw : RawReport, rawOfBus (busOfRaw raw) = raw) ∧
  (∀ bus : BitVec 512, busOfRaw (rawOfBus bus) = bus)

/-! ### DECODE and its extractors -/

/-- R66: DECODE is total; the identifier is checked first, and every field of a report is given by its bytes. -/
def Obligations.DecodeGivesEveryField : Prop :=
  ∀ (swap : Bool) (raw : RawReport),
    (raw[0] ≠ 0x04 → decodeReport swap raw = .mismatch raw[0]) ∧
    (raw[0] = 0x04 → decodeReport swap raw = .ok (reportBytes swap raw))

/-- R55: a byte-swapped field at offset `k`, and the fields that are assembled so. -/
def Obligations.SwappedFieldAssembly : Prop :=
  (∀ (raw : RawReport) (k : Nat) (h : k + 1 < 64),
    (u16sw raw k h).extractLsb' 8 8 = raw[k + 1] ∧ (u16sw raw k h).extractLsb' 0 8 = raw[k]) ∧
  (∀ (swap : Bool) (raw : RawReport) (r : StatusReport), decodeReport swap raw = .ok r →
    r.samples.toList.map Sample.position =
      [u16sw raw 4, u16sw raw 8, u16sw raw 12, u16sw raw 16, u16sw raw 28, u16sw raw 46, u16sw raw 50,
       u16sw raw 54] ∧
    r.counters.toList = [u16sw raw 20, u16sw raw 22, u16sw raw 24, u16sw raw 26] ∧
    r.handset1 = u16sw raw 42 ∧ r.handset2 = u16sw raw 44)

/-- R56: the validFlags word under both values of `VALID_SWAP`, the spec's value, and the ordinals of its flags. -/
def Obligations.ValidWordAssembly : Prop :=
  (∀ raw : RawReport, valid16 false raw = raw[2] ++ raw[3] ∧ valid16 true raw = raw[3] ++ raw[2]) ∧
  Config.validSwap = false ∧
  (∀ (swap : Bool) (raw : RawReport) (r : StatusReport), decodeReport swap raw = .ok r →
    r.validWord = valid16 swap raw ∧
    ∀ (i : Nat) (h : i < 16), r.valid[i] = r.validWord.getLsbD (15 - i))

/-- R57: a one-byte field is the byte itself, and a raw block is its bytes in offset order. -/
def Obligations.ByteAndBlockAssembly : Prop :=
  ∀ (swap : Bool) (raw : RawReport) (r : StatusReport), decodeReport swap raw = .ok r →
    r.reportId = raw[0] ∧ r.declaredLength = raw[1] ∧
    r.samples.toList.map Sample.status =
      [raw[6], raw[10], raw[14], raw[18], raw[30], raw[48], raw[52], raw[56]] ∧
    r.samples.toList.map Sample.speed =
      [raw[7], raw[11], raw[15], raw[19], raw[31], raw[49], raw[53], raw[57]] ∧
    (∀ (j : Nat) (h : j < 8), r.diagnostic[j] = raw[32 + j]) ∧
    (∀ (j : Nat) (h : j < 2), r.undefined1[j] = raw[40 + j]) ∧
    (∀ (j : Nat) (h : j < 6), r.undefined2[j] = raw[58 + j])

/-- The digit-stream reading of R72: parsing the digit range of bytes [a, a+n) as base-16 gives those bytes'
big-endian value. -/
def Obligations.DigitRangeIsBigEndian : Prop :=
  ∀ (raw : RawReport) (a n : Nat) (h : a + n ≤ 64),
    parseBase16 (digitRange raw (2 * a) (2 * (a + n))) =
      (rawn raw a n h).toList.foldl (fun v b => v * 256 + b.toNat) 0

/-- The digit forms that R73, R74 and R75 give beside their pseudocode. -/
def Obligations.ExtractorsEqualDigitForms : Prop :=
  (∀ (raw : RawReport) (a : Nat) (h : a < 64),
    (u8 raw a h).toNat = parseBase16 [(hexStream raw)[2 * a], (hexStream raw)[2 * a + 1]]) ∧
  (∀ (raw : RawReport) (k : Nat) (h : k + 1 < 64),
    (u16sw raw k h).toNat = raw[k + 1].toNat * 256 + raw[k].toNat ∧
    (u16sw raw k h).toNat =
      parseBase16 [(hexStream raw)[2 * k + 2], (hexStream raw)[2 * k + 3],
        (hexStream raw)[2 * k], (hexStream raw)[2 * k + 1]]) ∧
  (∀ raw : RawReport,
    (valid16 false raw).toNat = parseBase16 (digitRange raw 4 8) ∧ valid16 true raw = u16sw raw 2)

/-- R76: flag `i` of a ValidFlagSet is bit `15 - i` of its word, and the view of a report is that of its word. -/
def Obligations.ValidFlagOrdinals : Prop :=
  (∀ (w : U16) (i : Nat) (h : i < 16), (flags16 w)[i] = w.getLsbD (15 - i)) ∧
  (∀ r : StatusReport, r.valid = flags16 r.validWord) ∧
  (∀ (i : Nat) (h : i < 16), (flags16 0x8000)[i] = decide (i = 0)) ∧
  (∀ (i : Nat) (h : i < 16), (flags16 0x0000)[i] = false)

/-- R77: the named flags of a status byte are its high four bits in order, and `unknown` is its low nibble. -/
def Obligations.StatusByteFlags : Prop :=
  (∀ s : Byte,
    (status8 s).positionLost = s.getLsbD 7 ∧ (status8 s).antiCollision = s.getLsbD 6 ∧
    (status8 s).overloadDown = s.getLsbD 5 ∧ (status8 s).overloadUp = s.getLsbD 4 ∧
    (status8 s).unknown.toNat = s.toNat % 16) ∧
  (∀ x : Sample, x.flags = status8 x.status)

/-- Decision D9's remark: under the other value of `VALID_SWAP`, flag `i` and flag `(i + 8) mod 16` trade places. -/
def Obligations.ValidSwapPermutesFlags : Prop :=
  ∀ (raw : RawReport) (i : Nat) (h : i < 16),
    (flags16 (valid16 true raw))[i] = (flags16 (valid16 false raw))[(i + 8) % 16]

/-- R54: every byte of the buffer lies in the range of exactly one field, and the ranges have 64 bytes in all. -/
def Obligations.LayoutTilesTheBuffer : Prop :=
  (∀ f : ReportField, f ∈ ReportField.all ∧ f.offset + f.bytes ≤ 64) ∧
  (∀ i : Fin 64, ∃ f : ReportField, f.offset ≤ i.val ∧ i.val < f.offset + f.bytes ∧
    ∀ g ∈ ReportField.all, g.offset ≤ i.val → i.val < g.offset + g.bytes → g = f) ∧
  (ReportField.all.map ReportField.bytes).sum = 64

/-- R51: a field depends on the bytes of its own range and on nothing else of the buffer. -/
def Obligations.FieldDependsOnItsRange : Prop :=
  ∀ (swap : Bool) (raw raw' : RawReport) (r r' : StatusReport) (f : ReportField),
    decodeReport swap raw = .ok r → decodeReport swap raw' = .ok r' →
    ((∀ (i : Nat) (h : i < 64), f.offset ≤ i → i < f.offset + f.bytes → raw[i] = raw'[i]) ↔
      r.field f = r'.field f)

/-- R102: on buffers with the status identifier, DECODE is a bijection; the buffer can be rebuilt from the report,
and every report with that identifier is the report of a buffer, under both readings of `VALID_SWAP`. -/
def Obligations.DecodeIsBijection : Prop :=
  (∀ (swap : Bool) (raw : RawReport) (r : StatusReport),
    decodeReport swap raw = .ok r → r.toRaw swap = raw) ∧
  (∀ (swap : Bool) (r : StatusReport), r.reportId = 0x04 →
    decodeReport swap (r.toRaw swap) = .ok r)

/-- R49, R83, of DECODE's report alone: byte 1 is copied into `declaredLength`, and no other field of the report
depends on it.  NOT_READY does test byte 1 (R105; NotReadyByteByByte). -/
def Obligations.DeclaredLengthLeavesOtherFields : Prop :=
  ∀ (swap : Bool) (raw : RawReport) (r : StatusReport) (b : Byte),
    decodeReport swap raw = .ok r →
    decodeReport swap (raw.set 1 b) = .ok { r with declaredLength := b }

/-- R58: a buffer decodes exactly when byte 0 is the status identifier, whatever bytes 1 to 63 hold. -/
def Obligations.ExactlyStatusBuffersDecode : Prop :=
  ∀ (swap : Bool) (raw : RawReport), (∃ r, decodeReport swap raw = .ok r) ↔ raw[0] = 0x04

/-! ### The not-ready signature -/

/-- R105: the signature is identifier, length 56 and zeros in bytes 2 to 58, and every DECODE_STATUS edge computes
it of its sample. -/
def Obligations.NotReadyIsTheSignature : Prop :=
  (∀ raw : RawReport, notReady raw = true ↔ Signature raw) ∧
  (∀ (s : State) (r : Registers), s.regs = some r →
    s.pins.rst = false → s.pins.inValid = true → s.pins.raw[0] = 0x04 →
    ∃ t r', step s = .next t ∧ t.regs = some r' ∧ (r'.outNotReady = true ↔ Signature s.pins.raw))

/-- R108: one non-zero byte in bytes 2 to 58 or another declared length makes it false; bytes 59 to 63 never
matter. -/
def Obligations.NotReadyByteByByte : Prop :=
  ∀ (raw : RawReport) (b : Byte),
    (∀ (i : Nat) (h : i < 64), 2 ≤ i → i < 59 → b ≠ 0 → notReady (raw.set i b) = false) ∧
    (b ≠ 56 → notReady (raw.set 1 b) = false) ∧
    (b ≠ 0x04 → notReady (raw.set 0 b) = false) ∧
    (∀ (i : Nat) (h : i < 64), 59 ≤ i → notReady (raw.set i b) = notReady raw)

/-- R109: the report of a buffer with the signature is zero but for the identifier, the length and the last five
bytes. -/
def Obligations.NotReadyReportIsBlank : Prop :=
  ∀ (swap : Bool) (raw : RawReport), notReady raw = true →
    ∃ r, decodeReport swap raw = .ok r ∧ r.reportId = 0x04 ∧ r.declaredLength = 56 ∧ r.validWord = 0 ∧
      (∀ x ∈ r.samples.toList, x = { position := 0, status := 0, speed := 0 }) ∧
      (∀ c ∈ r.counters.toList, c = 0) ∧ r.handset1 = 0 ∧ r.handset2 = 0 ∧
      (∀ b ∈ r.diagnostic.toList, b = 0) ∧ (∀ b ∈ r.undefined1.toList, b = 0) ∧
      r.undefined2 = #v[(0 : Byte), raw[59], raw[60], raw[61], raw[62], raw[63]]

/-- R106: which edge writes `out_not_ready`, and with what. -/
def Obligations.NotReadyRegisterUpdate : Prop :=
  ∀ (s t : State) (r r' : Registers), s.regs = some r → step s = .next t → t.regs = some r' →
    (s.pins.rst = true → r'.outNotReady = false) ∧
    (s.pins.rst = false → s.pins.inValid = false → r'.outNotReady = r.outNotReady) ∧
    (s.pins.rst = false → s.pins.inValid = true → s.pins.raw[0] = 0x04 →
      r'.outNotReady = notReady s.pins.raw) ∧
    (s.pins.rst = false → s.pins.inValid = true → s.pins.raw[0] ≠ 0x04 → r'.outNotReady = false)

/-! ### The decode failure -/

/-- R110: ProtocolMismatch is the outcome of exactly the accepted edges with another identifier; it records that
identifier and keeps no report.  It does not stop the block: after any number of edges that accept no
decode (RESET or IDLE) the next accepted decode that the host presents has its own whole effect, a report or a second
failure. -/
def Obligations.ProtocolMismatchIsTheOnlyFailure : Prop :=
  ∀ (s : State) (r : Registers), s.regs = some r →
    ∃ t r', step s = .next t ∧ t.regs = some r' ∧
      ((r'.outStatus = 0b10 ∧ r'.outDone = true) ↔
        (s.pins.rst = false ∧ s.pins.inValid = true ∧ s.pins.raw[0] ≠ 0x04)) ∧
      (s.pins.rst = false → s.pins.inValid = true → s.pins.raw[0] ≠ 0x04 →
        r' = mismatchRegisters s.pins.raw[0] ∧
        ∀ (k : Nat) (q : Pins),
          (∀ p ∈ (t.pins :: t.upcoming).take k, p.rst = true ∨ p.inValid = false) →
          (t.pins :: t.upcoming)[k]? = some q → q.rst = false → q.inValid = true →
          ∃ u, core.run (k + 1) t = .next u ∧
            (q.raw[0] = 0x04 → ∃ rep, decodeReport Config.validSwap q.raw = .ok rep ∧
              u.regs = some (okRegisters rep (notReady q.raw))) ∧
            (q.raw[0] ≠ 0x04 → u.regs = some (mismatchRegisters q.raw[0])))

/-- R130: a port that holds no value faults when it is read. -/
def Obligations.ReadWithoutValueFaults : Prop :=
  ∀ (s : State) (r : Registers), s.regs = some r → r.Legal →
    (r.outStatus ≠ 0b01 →
      (∀ f, readReportField s f = .fault .reportHoldsNoValue) ∧
      (∀ i, readValidFlag s i = .fault .reportHoldsNoValue) ∧
      (∀ n, readStatusFlags s n = .fault .reportHoldsNoValue)) ∧
    (r.outErrId = none → readErrId s = .fault .errIdHoldsNoValue)

/-- The other half of R22 and R130: after DECODE_STATUS every report port reads as the field of DECODE's report,
and so do the views of R27 and R28. -/
def Obligations.ReportPortsShowTheReport : Prop :=
  ∀ (s : State) (r : Registers) (raw : RawReport), s.regs = some r → raw[0] = 0x04 →
    ∃ t, exec (.decodeStatus raw) s = .next t ∧ readStatus t = .value .ok ∧ readDone t = .value true ∧
      (∀ f, readReportField t f = .value ((reportBytes Config.validSwap raw).field f)) ∧
      (∀ i : Fin 16, readValidFlag t i =
        .value ((reportBytes Config.validSwap raw).validWord.getLsbD (15 - i.val))) ∧
      (∀ n : Fin 8, readStatusFlags t n =
        .value (status8 ((reportBytes Config.validSwap raw).samples[n]).status))

/-- R20: what each code of `out_status` reads as; the reserved code faults. -/
def Obligations.StatusPortCodes : Prop :=
  ∀ (s : State) (r : Registers), s.regs = some r →
    (r.outStatus = 0b00 → readStatus s = .value .empty) ∧
    (r.outStatus = 0b01 → readStatus s = .value .ok) ∧
    (r.outStatus = 0b10 → readStatus s = .value .mismatch) ∧
    (r.outStatus = 0b11 → readStatus s = .fault .reservedStatus)

/-! ### Whole-machine rules -/

/-- The register set stays legal: the status code is never the reserved one, the report and the identifier hold
values exactly under OK and MISMATCH, every report carries the status identifier, and `out_not_ready` is 1 exactly
with a report that carries the signature.  Every edge from every state keeps this. -/
def Obligations.EveryStepKeepsRegistersLegal : Prop :=
  ∀ s t : State, s.Inv → step s = .next t → t.Inv

/-- The registers right after reset are legal, and so are those of a machine that has not been reset. -/
def Obligations.ResetRegistersAreLegal : Prop :=
  State.reset.Inv ∧ State.reset.ResetApplied ∧ ∀ p ps, (State.powerUp p ps).Inv

/-- R21: after any edge `out_done` is 1 exactly when that edge accepted a decode. -/
def Obligations.DoneMarksAcceptedDecodes : Prop :=
  ∀ (s : State) (r : Registers), s.regs = some r →
    ∃ t, step s = .next t ∧ readDone t = .value (!s.pins.rst && s.pins.inValid)

/-- R104: only a reset edge or an accepted decode changes the report register, and it changes as a whole: to none or
to the whole report of the sample. -/
def Obligations.ReportChangesAsAWhole : Prop :=
  ∀ (s t : State) (r r' : Registers), s.regs = some r → step s = .next t → t.regs = some r' →
    (s.pins.rst = false → s.pins.inValid = false → r'.report = r.report) ∧
    (r'.report ≠ r.report → r'.report = none ∨
      ∃ rep, decodeReport Config.validSwap s.pins.raw = .ok rep ∧ r'.report = some rep)

/-- R41: reading the buffer changes nothing of the host's, and a decode edge gives the same registers from every
earlier state. -/
def Obligations.DecodingIsPure : Prop :=
  (∀ (i : Instr) (s t : State), exec i s = .next t → t.pins = s.pins ∧ t.upcoming = s.upcoming) ∧
  (∀ (s s' t t' : State) (r r' : Registers), s.regs = some r → s'.regs = some r' →
    s.pins.rst = false → s.pins.inValid = true → s'.pins = s.pins →
    step s = .next t → step s' = .next t' → t.regs = t'.regs)

/-- R131: reset wins over a decode presented at the same edge, which leaves no trace. -/
def Obligations.ResetDiscardsADecode : Prop :=
  ∀ s : State, s.pins.rst = true → s.pins.inValid = true →
    ∃ t, step s = .next t ∧ t.regs = some resetRegisters ∧ readDone t = .value false ∧
      ∀ raw : RawReport, ∃ u, step { s with pins := { s.pins with raw := raw } } = .next u ∧ u.regs = t.regs

/-- R124: one reset edge brings the machine out of the unknown state, into the reset values, and no later edge
brings it back. -/
def Obligations.OneResetEdgeBoots : Prop :=
  (∀ (p : Pins) (ps : List Pins), p.rst = true →
    ∃ t, step (State.powerUp p ps) = .next t ∧ t.regs = State.reset.regs) ∧
  (∀ (k : Nat) (s : State), s.ResetApplied → ∃ t, core.run k s = .next t ∧ t.ResetApplied)

/-- R123 with the model's reading of it (log entry 2): until a reset edge the registers hold no value, whatever
operation runs, and every read is refused. -/
def Obligations.UnknownUntilTheFirstReset : Prop :=
  ∀ s : State, s.regs = none →
    (∀ i : Instr, i ≠ .reset → exec i s = .next s) ∧
    readStatus s = .refused .noResetYet ∧ readDone s = .refused .noResetYet ∧
    readNotReady s = .refused .noResetYet ∧ readErrId s = .refused .noResetYet ∧
    (∀ f, readReportField s f = .refused .noResetYet) ∧
    (∀ i, readValidFlag s i = .refused .noResetYet) ∧
    (∀ n, readStatusFlags s n = .refused .noResetYet)

/-- R69 over a whole program: two machines that have been reset and receive the same edges agree in everything from
the first edge that resets or decodes, whatever they held before.  That edge is one the host presents; edges beyond
the end of the program, which `k` may count, keep the pins' levels by the model's choice (log entry 4). -/
def Obligations.HistoryIsForgotten : Prop :=
  ∀ (k : Nat) (s s' : State), s.ResetApplied → s'.ResetApplied →
    s'.pins = s.pins → s'.upcoming = s.upcoming →
    (∃ p ∈ (s.pins :: s.upcoming).take k, p.rst = true ∨ p.inValid = true) →
    ∃ t, core.run k s = .next t ∧ core.run k s' = .next t

/-! ### The textual syntax -/

/-- R61: the line printed for an operation reads back as that operation, with its whole buffer. -/
def Obligations.TextRoundTrip : Prop :=
  ∀ i : Instr, i.wellFormed = true → parseLine (printLine i) = some i

/-- R61's shorthand: a text of fewer than 128 hex digits that ends in `..0` is the same operation as those digits
padded with `0` digits to 128. -/
def Obligations.TextZeroPadding : Prop :=
  ∀ digits : List U4, digits.length < 128 →
    parseLine (decodeText ++ (digits.map hexChar ++ paddingMark)) =
      parseLine (decodeText ++ (digits.map hexChar ++ List.replicate (128 - digits.length) '0')) ∧
    (parseLine (decodeText ++ (digits.map hexChar ++ paddingMark))).isSome = true
end

