-- ==== Sys2Proof/Laws/Decode.lean ====
section
/-! SUPPORT. What selecting an operation can answer (R47, R48), said once. -/

namespace Sys2Proof

theorem opw_eq_append (p : Pins) :
    opw p = (BitVec.ofBool p.rst ++ BitVec.ofBool p.inValid) ++ p.raw[0] := rfl

/-- The masked comparisons of the operation map on the word of given pins, for all values of the pins. -/
theorem selectOperation_append (rst valid : Bool) (b : Byte) :
    selectOperation ((BitVec.ofBool rst ++ BitVec.ofBool valid) ++ b) =
      some (if rst then .reset else if valid then
        (if b = Config.statusId then .decodeStatus else .decodeMismatch) else .idle) := by
  revert rst valid b
  decide +kernel

@[simp] theorem withSample_reset (raw : RawReport) : Operation.reset.withSample raw = .reset := rfl
@[simp] theorem withSample_idle (raw : RawReport) : Operation.idle.withSample raw = .idle := rfl
@[simp] theorem withSample_decodeStatus (raw : RawReport) :
    Operation.decodeStatus.withSample raw = .decodeStatus raw := rfl
@[simp] theorem withSample_decodeMismatch (raw : RawReport) :
    Operation.decodeMismatch.withSample raw = .decodeMismatch raw := rfl

/-- Which operation an edge performs, as the step of R62 writes it. -/
theorem decode_eq (p : Pins) :
    decode p = .ok (if p.rst then .reset else if p.inValid then
      (if p.raw[0] = Config.statusId then .decodeStatus p.raw else .decodeMismatch p.raw) else .idle) := by
  simp only [decode, opw_eq_append, selectOperation_append]
  cases p.rst <;> cases p.inValid <;> simp
  split <;> rfl

@[simp] theorem encode_reset_rst : (encode .reset).rst = true := rfl
@[simp] theorem encode_idle_rst : (encode .idle).rst = false := rfl
@[simp] theorem encode_idle_inValid : (encode .idle).inValid = false := rfl
@[simp] theorem encode_decodeStatus (raw : RawReport) :
    encode (.decodeStatus raw) = { rst := false, inValid := true, raw := raw } := rfl
@[simp] theorem encode_decodeMismatch (raw : RawReport) :
    encode (.decodeMismatch raw) = { rst := false, inValid := true, raw := raw } := rfl

@[simp] theorem pinsOfBytes_rst (b0 b1 : Byte) (rest : List Byte) :
    (pinsOfBytes b0 b1 rest).rst = b1.getLsbD 1 := rfl
@[simp] theorem pinsOfBytes_inValid (b0 b1 : Byte) (rest : List Byte) :
    (pinsOfBytes b0 b1 rest).inValid = b1.getLsbD 0 := rfl

theorem pinsOfBytes_raw_zero (b0 b1 : Byte) (rest : List Byte) :
    (pinsOfBytes b0 b1 rest).raw[0] = b0 := by
  simp [pinsOfBytes]

theorem pinsOfBytes_raw_succ (b0 b1 : Byte) (rest : List Byte) (i : Nat) (h : i + 1 < 64) :
    (pinsOfBytes b0 b1 rest).raw[i + 1] = rest.getD i 0 := by
  simp [pinsOfBytes]

end Sys2Proof
end

