-- ==== Sys2Proof/Laws/Flags.lean ====
section
/-! SUPPORT. The status codes and their names. -/

namespace Sys2Proof.Machine

@[simp] theorem ofCode_code (st : Status) : Status.ofCode st.code = some st := by
  cases st <;> rfl

theorem ofCode_eq_none_iff (c : BitVec 2) : Status.ofCode c = none ↔ c = 0b11 := by
  revert c
  decide

theorem status8_unknown_lt (s : Byte) : (status8 s).unknown.toNat < 16 := (status8 s).unknown.isLt

end Sys2Proof.Machine
end

