-- ==== Sys2Proof/Laws/Word.lean ====
section
/-! SUPPORT. Two bytes side by side, the spec's `{hi, lo}` (R8), as a 16-bit value. -/

namespace Sys2Proof

theorem pair_toNat (hi lo : Byte) : (hi ++ lo : U16).toNat = hi.toNat * 256 + lo.toNat := by
  rw [BitVec.toNat_append, ← Nat.shiftLeft_add_eq_or_of_lt lo.isLt, Nat.shiftLeft_eq]

theorem pair_getLsbD (hi lo : Byte) (i : Nat) :
    BitVec.getLsbD (hi ++ lo : U16) i = if i < 8 then lo.getLsbD i else hi.getLsbD (i - 8) :=
  BitVec.getLsbD_append

@[simp] theorem pair_low (hi lo : Byte) : BitVec.extractLsb' 0 8 (hi ++ lo : U16) = lo := by
  apply BitVec.eq_of_getLsbD_eq
  intro i h
  rw [BitVec.getLsbD_extractLsb', Nat.zero_add, pair_getLsbD, if_pos h]
  simp [h]

@[simp] theorem pair_high (hi lo : Byte) : BitVec.extractLsb' 8 8 (hi ++ lo : U16) = hi := by
  apply BitVec.eq_of_getLsbD_eq
  intro i h
  rw [BitVec.getLsbD_extractLsb', pair_getLsbD, if_neg (by omega)]
  simp [h]

@[simp] theorem pair_of_halves (w : U16) : (w.extractLsb' 8 8 ++ w.extractLsb' 0 8 : U16) = w := by
  apply BitVec.eq_of_getLsbD_eq
  intro i h
  rw [pair_getLsbD]
  split
  · simp_all
  · have h8 : i - 8 < 8 := by omega
    have hi : 8 + (i - 8) = i := by omega
    simp [h8, hi]

theorem pair_inj {a b c d : Byte} : (a ++ b : U16) = (c ++ d : U16) ↔ a = c ∧ b = d := by
  refine ⟨fun h => ⟨?_, ?_⟩, fun h => by rw [h.1, h.2]⟩
  · simpa using congrArg (BitVec.extractLsb' 8 8) h
  · simpa using congrArg (BitVec.extractLsb' 0 8) h

theorem pair_eq_zero {a b : Byte} : (a ++ b : U16) = 0 ↔ a = 0 ∧ b = 0 := by
  simpa using pair_inj (a := a) (b := b) (c := 0) (d := 0)

end Sys2Proof
end

