-- ==== Sys2Proof/Laws/Operands.lean ====
section
/-! SUPPORT. What each extractor gives, element by element. -/

namespace Sys2Proof.Machine

/-- The sizes in the types are the parameters of R6. -/
theorem sizes_are_parameters :
    RawReport = Vector (BitVec Config.byteWidth) Config.reportBytes ∧ U16 = BitVec Config.fieldWidth ∧
    (∀ r : StatusReport, r.samples.toList.length = Config.sampleCount) ∧
    (∀ r : StatusReport, r.counters.toList.length = Config.counterCount) :=
  ⟨rfl, rfl, fun _ => rfl, fun _ => rfl⟩

@[simp] theorem memRead_getElem (raw : RawReport) (a n : Nat) (h : a + n ≤ 64) (j : Nat) (hj : j < n) :
    (memRead raw a n h)[j] = raw[a + j] := by
  simp [memRead]

@[simp] theorem rawn_getElem (raw : RawReport) (a n : Nat) (h : a + n ≤ 64) (j : Nat) (hj : j < n) :
    (rawn raw a n h)[j] = raw[a + j] :=
  memRead_getElem raw a n h j hj

@[simp] theorem sampleAt_position (raw : RawReport) (a : Nat) (h : a + 3 < 64) :
    (sampleAt raw a h).position = raw[a + 1] ++ raw[a] := rfl
@[simp] theorem sampleAt_status (raw : RawReport) (a : Nat) (h : a + 3 < 64) :
    (sampleAt raw a h).status = raw[a + 2] := rfl
@[simp] theorem sampleAt_speed (raw : RawReport) (a : Nat) (h : a + 3 < 64) :
    (sampleAt raw a h).speed = raw[a + 3] := rfl

theorem hexStream_even (raw : RawReport) (i : Nat) (h : i < 64) :
    (hexStream raw)[2 * i] = raw[i].extractLsb' 4 4 := by
  simp [hexStream]

theorem hexStream_odd (raw : RawReport) (i : Nat) (h : i < 64) :
    (hexStream raw)[2 * i + 1] = raw[i].extractLsb' 0 4 := by
  have h2 : (2 * i + 1) / 2 = i := by omega
  simp [hexStream, h2]

@[simp] theorem parseBase16_append (xs : List U4) (d : U4) :
    parseBase16 (xs ++ [d]) = parseBase16 xs * 16 + d.toNat := by
  simp [parseBase16]

@[simp] theorem lowByte_pair (hi lo : Byte) : lowByte (hi ++ lo : U16) = lo := pair_low hi lo
@[simp] theorem highByte_pair (hi lo : Byte) : highByte (hi ++ lo : U16) = hi := pair_high hi lo
@[simp] theorem pair_highByte_lowByte (w : U16) : (highByte w ++ lowByte w : U16) = w := pair_of_halves w

/-- DECODE answers a report only for the status identifier, and then the report of the buffer. -/
theorem decodeReport_eq_ok_iff (swap : Bool) (raw : RawReport) (r : StatusReport) :
    decodeReport swap raw = .ok r ↔ raw[0] = Config.statusId ∧ r = reportOf swap raw := by
  unfold decodeReport
  split <;> simp_all [eq_comm]

/-- DECODE fails only for another identifier, which it names. -/
theorem decodeReport_eq_mismatch_iff (swap : Bool) (raw : RawReport) (b : Byte) :
    decodeReport swap raw = .mismatch b ↔ raw[0] ≠ Config.statusId ∧ b = raw[0] := by
  unfold decodeReport
  split <;> simp_all [eq_comm]

end Sys2Proof.Machine
end

