-- ==== Sys2Proof/Laws/State.lean ====
section
/-! SUPPORT. One lemma per field and update of State. -/

namespace Sys2Proof.Machine

@[simp] theorem writeRegisters_regs (s : State) (f : Registers → Registers) :
    (s.writeRegisters f).regs = s.regs.map f := rfl
@[simp] theorem writeRegisters_pins (s : State) (f : Registers → Registers) :
    (s.writeRegisters f).pins = s.pins := rfl
@[simp] theorem writeRegisters_upcoming (s : State) (f : Registers → Registers) :
    (s.writeRegisters f).upcoming = s.upcoming := rfl

@[simp] theorem applyReset_regs (s : State) : s.applyReset.regs = State.reset.regs := rfl
@[simp] theorem applyReset_pins (s : State) : s.applyReset.pins = s.pins := rfl
@[simp] theorem applyReset_upcoming (s : State) : s.applyReset.upcoming = s.upcoming := rfl

@[simp] theorem holdRegisters_regs (s : State) :
    s.holdRegisters.regs = s.regs.map fun r => { r with outDone := false } := rfl
@[simp] theorem holdRegisters_pins (s : State) : s.holdRegisters.pins = s.pins := rfl
@[simp] theorem holdRegisters_upcoming (s : State) : s.holdRegisters.upcoming = s.upcoming := rfl

@[simp] theorem acceptReport_regs (s : State) (rep : StatusReport) (b : Bool) :
    (s.acceptReport rep b).regs = s.regs.map fun _ =>
      { outStatus := 0b01, outDone := true, report := some rep, outErrId := none, outNotReady := b } := rfl
@[simp] theorem acceptReport_pins (s : State) (rep : StatusReport) (b : Bool) :
    (s.acceptReport rep b).pins = s.pins := rfl
@[simp] theorem acceptReport_upcoming (s : State) (rep : StatusReport) (b : Bool) :
    (s.acceptReport rep b).upcoming = s.upcoming := rfl

@[simp] theorem takeProtocolMismatch_regs (s : State) (b : Byte) :
    (s.takeProtocolMismatch b).regs = s.regs.map fun _ =>
      { outStatus := 0b10, outDone := true, report := none, outErrId := some b, outNotReady := false } := rfl
@[simp] theorem takeProtocolMismatch_pins (s : State) (b : Byte) :
    (s.takeProtocolMismatch b).pins = s.pins := rfl
@[simp] theorem takeProtocolMismatch_upcoming (s : State) (b : Byte) :
    (s.takeProtocolMismatch b).upcoming = s.upcoming := rfl

@[simp] theorem advancePins_regs (s : State) : s.advancePins.regs = s.regs := by
  unfold State.advancePins; split <;> rfl

theorem advancePins_of_nil {s : State} (h : s.upcoming = []) : s.advancePins = s := by
  simp [State.advancePins, h]

theorem advancePins_of_cons {s : State} {p : Pins} {ps : List Pins} (h : s.upcoming = p :: ps) :
    s.advancePins = { s with pins := p, upcoming := ps } := by
  simp [State.advancePins, h]

@[simp] theorem withFetchWord_regs (s : State) (nbits w : Nat) : (s.withFetchWord nbits w).regs = s.regs := rfl
@[simp] theorem withFetchWord_pins (s : State) (nbits w : Nat) :
    (s.withFetchWord nbits w).pins = pinsOfTableWord nbits w := rfl
@[simp] theorem withFetchWord_upcoming (s : State) (nbits w : Nat) :
    (s.withFetchWord nbits w).upcoming = s.upcoming := rfl

end Sys2Proof.Machine
end

