-- ==== Sys2Proof/Laws/Ops.lean ====
section
/-! SUPPORT. What each meaning and one step can do, said once; and what a read of a port answers. -/

namespace Sys2Proof.Machine

@[simp] theorem exec_reset (s : State) : exec .reset s = .next s.applyReset := rfl
@[simp] theorem exec_idle (s : State) : exec .idle s = .next s.holdRegisters := rfl
@[simp] theorem exec_decodeMismatch (raw : RawReport) (s : State) :
    exec (.decodeMismatch raw) s = .next (s.takeProtocolMismatch raw[0]) := rfl

theorem exec_decodeStatus_of_id {raw : RawReport} (h : raw[0] = Config.statusId) (s : State) :
    exec (.decodeStatus raw) s = .next (s.acceptReport (reportOf Config.validSwap raw) (notReady raw)) := by
  simp [exec, execDecodeStatus, decodeReport, h]

/-- Every operation term takes a next state, and one of the four register writes. -/
theorem exec_cases (i : Instr) (s : State) :
    exec i s = .next s.applyReset ∨ exec i s = .next s.holdRegisters ∨
    (∃ raw : RawReport, raw[0] = Config.statusId ∧
      exec i s = .next (s.acceptReport (reportOf Config.validSwap raw) (notReady raw))) ∨
    (∃ b, exec i s = .next (s.takeProtocolMismatch b)) := by
  cases i with
  | reset => exact .inl rfl
  | idle => exact .inr (.inl rfl)
  | decodeMismatch raw => exact .inr (.inr (.inr ⟨raw[0], rfl⟩))
  | decodeStatus raw =>
    by_cases h : raw[0] = Config.statusId
    · exact .inr (.inr (.inl ⟨raw, h, exec_decodeStatus_of_id h s⟩))
    · exact .inr (.inr (.inr ⟨raw[0], by simp [exec, execDecodeStatus, decodeReport, h]⟩))

/-- One step, guards included: which register write an edge makes, from the pins alone. -/
theorem step_cases {s t : State} (h : step s = .next t) :
    (s.pins.rst = true ∧ t = s.applyReset.advancePins) ∨
    (s.pins.rst = false ∧ s.pins.inValid = false ∧ t = s.holdRegisters.advancePins) ∨
    (s.pins.rst = false ∧ s.pins.inValid = true ∧ s.pins.raw[0] = Config.statusId ∧
      t = (s.acceptReport (reportOf Config.validSwap s.pins.raw) (notReady s.pins.raw)).advancePins) ∨
    (s.pins.rst = false ∧ s.pins.inValid = true ∧ s.pins.raw[0] ≠ Config.statusId ∧
      t = (s.takeProtocolMismatch s.pins.raw[0]).advancePins) := by
  simp only [step, decode_eq] at h
  cases hr : s.pins.rst <;> simp only [hr] at h ⊢
  · cases hv : s.pins.inValid <;> simp only [hv] at h ⊢
    · simp at h
      simp [h]
    · by_cases hid : s.pins.raw[0] = Config.statusId
      · simp [hid, exec_decodeStatus_of_id hid] at h
        simp [hid, h]
      · simp [hid] at h
        simp [hid, h]
  · simp at h
    simp [h]

/-- A run of one edge more, from a step that goes on. -/
theorem run_of_step {s t : State} (h : step s = .next t) (k : Nat) : core.run (k + 1) s = core.run k t := by
  have unfolded : ∀ (M : Host.Core) (s t : M.State), M.step s = .next t → M.run (k + 1) s = M.run k t := by
    intro M s t h
    simp only [Host.Core.run, h]
  exact unfolded core s t h

theorem readPort_of_regs {α : Type} {s : State} {r : Registers} (h : s.regs = some r)
    (port : Registers → ReadResult α) : s.readPort port = port r := by
  simp [State.readPort, h]

theorem readPort_of_no_reset {α : Type} {s : State} (h : s.regs = none)
    (port : Registers → ReadResult α) : s.readPort port = .refused .noResetYet := by
  simp [State.readPort, h]

theorem reportView_some {α : Type} {r : Registers} {rep : StatusReport} (h : r.report = some rep)
    (view : StatusReport → α) : r.reportView view = .value (view rep) := by
  simp [Registers.reportView, Registers.reportPort, h]

theorem reportView_none {α : Type} {r : Registers} (h : r.report = none) (view : StatusReport → α) :
    r.reportView view = .fault .reportHoldsNoValue := by
  simp [Registers.reportView, Registers.reportPort, h]

end Sys2Proof.Machine
end

