-- ==== Sys2Proof/Laws/PerInstr.lean ====
section
/-! SUPPORT. What holds of every operation as syntax, one lemma per constructor. -/

namespace Sys2Proof.Laws.EncodeMatchesRow

/-- The row of the operation map that an operation belongs to. -/
def rowOf : Instr → OpRow
  | .reset => { operation := .reset, pattern := 0x200, mask := 0x200 }
  | .decodeStatus _ => { operation := .decodeStatus, pattern := 0x104, mask := 0x3FF }
  | .decodeMismatch _ => { operation := .decodeMismatch, pattern := 0x100, mask := 0x300 }
  | .idle => { operation := .idle, pattern := 0x000, mask := 0x300 }

/-- The row is one of the map, and the pins that encode a well-formed operation match it (R48). -/
def Statement (i : Instr) : Prop :=
  rowOf i ∈ opRows ∧ (i.wellFormed = true → (rowOf i).hits (opw (encode i)) = true)

theorem reset : Statement .reset := ⟨by decide, fun _ => by decide⟩

theorem decodeStatus (raw : RawReport) : Statement (.decodeStatus raw) := by
  refine ⟨.tail _ (.head _), fun h => ?_⟩
  have hid : raw[0] = Config.statusId := by simpa [Instr.wellFormed] using h
  simp only [encode_decodeStatus, opw_eq_append, hid, rowOf]
  decide

theorem decodeMismatch (raw : RawReport) : Statement (.decodeMismatch raw) := by
  refine ⟨by simp [rowOf, opRows], fun _ => ?_⟩
  have all : ∀ b : Byte,
      (rowOf (.decodeMismatch raw)).hits ((BitVec.ofBool false ++ BitVec.ofBool true) ++ b) = true := by
    simp only [rowOf, OpRow.hits]
    decide +kernel
  simpa only [encode_decodeMismatch, opw_eq_append] using all raw[0]

theorem idle : Statement .idle := ⟨by decide, fun _ => by decide⟩

end Sys2Proof.Laws.EncodeMatchesRow
end

