-- ==== Sys2Proof/Tests/Slice0.lean ====
section
/-! SUPPORT. The model's own tests.  Every expected value is from spec/95_test_vectors.md or worked out by hand from
the rule named; then one witness for the hypotheses of each statement that has some. -/

namespace Sys2Proof.Tests
open Sys2Proof.Machine Sys2Proof.Stated

/-- A buffer from its first bytes, zeros after them (R61's `..0`). -/
def buffer (bytes : List Byte) : RawReport := Vector.ofFn fun i => bytes.getD i.val 0

/-- Vector A of spec/95_test_vectors.md, section 2.1. -/
def vectorA : RawReport := buffer (
  [0x04, 0x38, 0x80, 0x01, 0x24, 0x13, 0x00, 0x00, 0x34, 0x12, 0xA5, 0x7F, 0xFF, 0xFF, 0x0F, 0xFF] ++
  [0x01, 0x00, 0x80, 0x01, 0x30, 0x13, 0x00, 0x01, 0x00, 0x00, 0xCD, 0xAB, 0x10, 0x27, 0x40, 0x02] ++
  [0x01, 0x02, 0x03, 0x04, 0x05, 0x06, 0x07, 0x08, 0xAA, 0x55, 0xFF, 0x7F, 0x00, 0x80, 0x02, 0x00] ++
  [0x20, 0x03, 0x00, 0x02, 0x10, 0x04, 0x78, 0x56, 0xF0, 0x05, 0xDE, 0xAD, 0xBE, 0xEF, 0x00, 0x11])

/-- `0438..0`, the document's not-ready buffer (S6). -/
def blank : RawReport := buffer [0x04, 0x38]

/-- `0538..0`, a mismatch (section 2.7). -/
def other : RawReport := buffer [0x05, 0x38]

/-- The machine after reset with the given levels on its pins. -/
def withPins (rst inValid : Bool) (raw : RawReport) : State :=
  { State.reset with pins := { rst := rst, inValid := inValid, raw := raw } }

/-- Registers that hold a mismatch with identifier 0x05. -/
def failed : Registers := mismatchRegisters 0x05

/-- A state that holds the given registers. -/
def holding (r : Registers) (rst inValid : Bool) (raw : RawReport) : State :=
  { withPins rst inValid raw with regs := some r }

/-- Levels that present a decode of a buffer. -/
def decodePins (raw : RawReport) : Pins := { rst := false, inValid := true, raw := raw }

/-- A machine that holds a mismatch and is presented two IDLE edges and then the not-ready buffer. -/
def idleThen : State := { regs := some failed, pins := restPins, upcoming := [restPins, decodePins blank] }

/-- A machine at an edge that fails, after which the host presents `later`. -/
def failing (later : List Pins) : State :=
  { regs := some failed, pins := decodePins other, upcoming := later }

/-! ### Well-formedness: each check refuses an ill-formed term -/

theorem test_wf_status_id : (Instr.decodeStatus other).wellFormed = false := by decide
theorem test_wf_mismatch_id : (Instr.decodeMismatch blank).wellFormed = false := by decide

/-! ### Decoding: words written out from R47, R48 and section 2.6 -/

theorem test_decode_reset : decodeTableWord 16 0b1000000000 = some .reset := by decide
theorem test_decode_reset_wins : decodeTableWord 16 0x304 = some .reset := by decide
theorem test_decode_idle : decodeTableWord 16 0b0000000100 = some .idle := by decide
theorem test_decode_status : decodeTableWord 16 0b0100000100 = some (.decodeStatus (buffer [0x04])) := by decide
theorem test_decode_mismatch : decodeTableWord 16 0b0100000101 = some (.decodeMismatch (buffer [0x05])) := by decide
theorem test_decode_all_eight_bits : decodeTableWord 16 0x184 = some (.decodeMismatch (buffer [0x84])) := by decide
theorem test_decode_eleven_bits : decodeBytes [0x00, 0x04] = .error .notTenBits := by decide
theorem test_decode_too_short : decodeBytes [0x04] = .error .tooShort := by decide
theorem test_decode_too_long : decodeBytes (List.replicate 66 0) = .error .tooLong := by decide
theorem test_encode_vectorA : (encodeBytes (.decodeStatus vectorA)).take 4 = [0x04, 0x01, 0x38, 0x80] := by decide
theorem test_bus_byte_one : rawOfBus 0x3804 = blank := by decide +kernel

/-! ### Extractors and flags: sections 2.1 to 2.5 and 2.8 -/

theorem test_u16sw_document : u16sw (buffer [0x34, 0x12]) 0 = 0x1234 := by decide
theorem test_u16sw_low_byte_first : u16sw (buffer [0x01, 0x00]) 0 = 1 := by decide
theorem test_valid16 : valid16 false (buffer [0, 0, 0x80, 0x01]) = 0x8001 := by decide
theorem test_valid16_swapped : valid16 true (buffer [0, 0, 0x80, 0x01]) = 0x0180 := by decide
theorem test_flags16_1234 : (List.range 16).filter (fun i => (flags16 0x1234).toList.getD i false) = [3, 6, 10, 11, 13] := by
  decide
theorem test_status8 : status8 0xA5 =
    { positionLost := true, antiCollision := false, overloadDown := true, overloadUp := false, unknown := 5 } := by
  decide
theorem test_sample_ref2 : sampleAt vectorA 8 = { position := 4660, status := 0xA5, speed := 127 } := by decide
theorem test_hex_digits : digitRange blank 0 4 = [0, 4, 3, 8] := by decide
theorem test_not_ready : notReady blank = true := by decide
theorem test_not_ready_byte58 : notReady (blank.set 58 0x01) = false := by decide
theorem test_not_ready_byte59 : notReady (blank.set 59 0x01) = true := by decide

/-- Vector A, every field (section 2.1). -/
theorem test_vectorA : reportOf false vectorA =
    { reportId := 4, declaredLength := 56, validWord := 0x8001
      ref1 := { position := 4900, status := 0x00, speed := 0 }
      ref2 := { position := 4660, status := 0xA5, speed := 127 }
      ref3 := { position := 65535, status := 0x0F, speed := 255 }
      ref4 := { position := 1, status := 0x80, speed := 1 }
      ref1cnt := 4912, ref2cnt := 256, ref3cnt := 0, ref4cnt := 43981
      ref5 := { position := 10000, status := 0x40, speed := 2 }
      diagnostic := #v[1, 2, 3, 4, 5, 6, 7, 8]
      undefined1 := #v[0xAA, 0x55]
      handset1 := 32767, handset2 := 32768
      ref6 := { position := 2, status := 0x20, speed := 3 }
      ref7 := { position := 512, status := 0x10, speed := 4 }
      ref8 := { position := 22136, status := 0xF0, speed := 5 }
      undefined2 := #v[0xDE, 0xAD, 0xBE, 0xEF, 0x00, 0x11] } := by decide

/-! ### The operations: section 2.9, one edge each -/

/-- What an outcome leaves in the registers. -/
def registersAfter (o : Host.Outcome State Fault Refusal) : Option Registers :=
  match o with
  | .next t => t.regs
  | .fault _ => none
  | .refused _ => none

theorem test_reset_from_power_up :
    registersAfter (step (State.powerUp { rst := true, inValid := true, raw := other } [])) = State.reset.regs := by
  decide
theorem test_reset_discards_report :
    registersAfter (exec .reset (holding (okRegisters (reportOf false vectorA) false) true false other)) =
      State.reset.regs := by decide
theorem test_idle_clears_done :
    registersAfter (exec .idle (holding failed false false other)) =
      some { failed with outDone := false } := by decide
theorem test_idle_after_reset : registersAfter (step State.reset) = State.reset.regs := by decide
theorem test_decode_status_not_ready :
    (registersAfter (exec (.decodeStatus blank) (holding failed false true blank))).map
      (fun r => (r.outStatus, r.outDone, r.outErrId, r.outNotReady)) = some (0b01, true, none, true) := by decide
theorem test_decode_status_position :
    (registersAfter (step (withPins false true vectorA))).bind
      (fun r => r.report.map fun rep => (rep.ref1.position, rep.ref1cnt)) = some (4900, 4912) := by decide
theorem test_decode_mismatch_registers :
    registersAfter (step (withPins false true other)) =
      some { outStatus := 0b10, outDone := true, report := none, outErrId := some 0x05, outNotReady := false } := by
  decide
theorem test_decode_mismatch_discards_report :
    readReportField { State.reset with regs := some (mismatchRegisters 0xFF) } .ref1 =
      .fault .reportHoldsNoValue := by decide

/-! ### Text: R61 and section 3 -/

theorem test_text_padding :
    parseLine ['D', 'E', 'C', 'O', 'D', 'E', ' ', '0', '4', '3', '8', '.', '.', '0'] = some (.decodeStatus blank) := by
  decide +kernel
theorem test_text_vectorA :
    parseLine ("DECODE 04388001241300003412A57FFFFF0FFF01008001301300010000CDAB1027400201020304050607".toList ++
      "08AA55FF7F008002002003000210047856F005DEADBEEF0011".toList) = some (.decodeStatus vectorA) := by
  decide +kernel
theorem test_text_lower_case : hexValue 'b' = some 0xB := by decide
theorem test_text_short_without_mark :
    parseLine ['D', 'E', 'C', 'O', 'D', 'E', ' ', '0', '4', '3', '8'] = none := by decide
theorem test_text_program :
    parseProgram (resetText ++ '\n' :: idleText) = some [.reset, .idle] := by decide

/-! ### Witnesses: for each statement with hypotheses, states and operands that meet them -/

theorem witness_ResetWritesResetValues :
    (withPins true false other).pins.rst = true ∧ exec .reset State.reset = .next State.reset.applyReset :=
  ⟨rfl, rfl⟩
theorem witness_IdleClearsDoneOnly :
    restPins.rst = false ∧ restPins.inValid = false ∧
      (holding failed false false other).regs = some failed ∧
      1 ≤ idleThen.upcoming.length ∧ idleThen.regs = some failed ∧
      ∀ p ∈ idleThen.pins :: idleThen.upcoming.take 1, p.rst = false ∧ p.inValid = false := by decide
theorem witness_DecodeStatusWritesTheReport :
    (withPins false true vectorA).pins.rst = false ∧ (withPins false true vectorA).pins.inValid = true ∧
      vectorA[0] = 0x04 ∧ (holding failed false true vectorA).regs = some failed := by decide
theorem witness_DecodeMismatchRecordsTheIdentifier :
    (withPins false true other).pins.rst = false ∧ (withPins false true other).pins.inValid = true ∧
      other[0] ≠ 0x04 ∧ (holding failed false true other).regs = some failed := by decide
theorem witness_RegisterWriteTable :
    (withPins true true vectorA).regs.isSome = true ∧ (withPins true true vectorA).pins.rst = true ∧
      (withPins false false vectorA).pins.inValid = false ∧ (withPins false true vectorA).pins.raw[0] = 0x04 ∧
      (withPins false true other).pins.raw[0] ≠ 0x04 := by decide
theorem witness_OperationWordIsThePins :
    opw (withPins false true blank).pins = opw (withPins false true vectorA).pins ∧
      decode (withPins false true blank).pins = .ok (Operation.decodeStatus.withSample blank) := by decide
theorem witness_StepRunsTheDecodedOperation :
    decode State.reset.pins = .ok .idle ∧ exec .idle State.reset = .next State.reset.holdRegisters ∧
      State.reset.upcoming = [] ∧ (State.powerUp restPins [restPins]).upcoming = restPins :: [] :=
  ⟨by decide, rfl, rfl, rfl⟩
theorem witness_FetchedWordIsTheNextOperation :
    decodeTableWord 16 0x105 = some (.decodeMismatch (buffer [0x05])) := by decide
theorem witness_DecodeOfEncodeBytes :
    (Instr.decodeStatus vectorA).wellFormed = true ∧ (Instr.decodeMismatch other).wellFormed = true := by decide
theorem witness_EncodeOfDecode :
    decode (withPins false true vectorA).pins = .ok (.decodeStatus vectorA) := by decide
theorem witness_BusPacking : (0 : Nat) < 64 ∧ (63 : Nat) < 64 := by decide
theorem witness_DecodeGivesEveryField : vectorA[0] = 0x04 ∧ other[0] ≠ 0x04 := by decide
/-- The hypothesis of every statement about a report that DECODE gives: SwappedFieldAssembly, ValidWordAssembly,
ByteAndBlockAssembly, DeclaredLengthLeavesOtherFields and the first half of DecodeIsBijection. -/
theorem witness_DecodedReport : decodeReport false vectorA = .ok (reportOf false vectorA) ∧
    decodeReport true vectorA = .ok (reportOf true vectorA) := by decide
theorem witness_SwappedFieldAssembly : (0 + 1 : Nat) < 64 ∧ (62 + 1 : Nat) < 64 := by decide
theorem witness_DigitRangeIsBigEndian : (0 + 64 : Nat) ≤ 64 ∧ (64 + 0 : Nat) ≤ 64 := by decide
theorem witness_FieldDependsOnItsRange :
    decodeReport false vectorA = .ok (reportOf false vectorA) ∧
      decodeReport false (vectorA.set 3 0x02) = .ok (reportOf false (vectorA.set 3 0x02)) := by decide
theorem witness_DecodeIsBijection : (reportOf false vectorA).reportId = 0x04 := by decide
theorem witness_NotReadyByteByByte :
    (2 : Nat) < 59 ∧ (58 : Nat) < 59 ∧ (59 : Nat) < 64 ∧ (63 : Nat) < 64 ∧ (0x01 : Byte) ≠ 0 ∧ (0x37 : Byte) ≠ 56 ∧
      (0x05 : Byte) ≠ 0x04 := by decide
theorem witness_NotReadyReportIsBlank : notReady (blank.set 63 0xFF) = true := by decide

/-- One step of each kind, to a state whose registers are known: the hypotheses of NotReadyRegisterUpdate,
ReportChangesAsAWhole, DecodingIsPure and EveryStepKeepsRegistersLegal. -/
theorem witness_Steps :
    registersAfter (step (holding failed true true vectorA)) = some resetRegisters ∧
      registersAfter (step (holding failed false false vectorA)) = some { failed with outDone := false } ∧
      registersAfter (step (holding failed false true blank)) = some (okRegisters (reportOf false blank) true) ∧
      registersAfter (step (holding failed false true other)) = some failed := by decide
theorem witness_NotReadyIsTheSignature :
    (holding failed false true blank).regs = some failed ∧ (holding failed false true blank).pins.rst = false ∧
      (holding failed false true blank).pins.inValid = true ∧ blank[0] = 0x04 := by decide
theorem witness_EveryEdgeCompletes :
    (withPins false true other).regs = some resetRegisters ∧ resetRegisters.outStatus = Status.code .empty ∧
      failed.outErrId = some 0x05 ∧
      (okRegisters (reportOf false vectorA) false).report = some (reportOf false vectorA) := by decide
theorem witness_NotReadyRegisterUpdate :
    (holding failed false true blank).regs = some failed ∧ (holding failed false true blank).pins.raw[0] = 0x04 := by
  decide
theorem witness_ReportChangesAsAWhole : failed.report ≠ some (reportOf false blank) := by decide
theorem witness_DecodingIsPure :
    (holding failed false true blank).pins = (withPins false true blank).pins ∧
      (withPins false true blank).pins.inValid = true := by decide
/-- The failing edge and its next state, whose pins are the first of the later edges. -/
theorem step_failing (p : Pins) (ps : List Pins) :
    step (failing (p :: ps)) = .next { regs := some failed, pins := p, upcoming := ps } := by
  have hd : decode (failing (p :: ps)).pins = .ok (.decodeMismatch other) :=
    (by decide : decode (decodePins other) = .ok (.decodeMismatch other))
  simp only [step, hd, exec_decodeMismatch]
  rfl

/-- A status report on the very next edge, and a second mismatch after an IDLE edge: the hypotheses on the failing
edge, on the edges after it and on the next accepted decode, all met. -/
theorem witness_ProtocolMismatchIsTheOnlyFailure :
    ((failing [decodePins blank]).regs = some failed ∧ (failing [decodePins blank]).pins.rst = false ∧
      (failing [decodePins blank]).pins.inValid = true ∧ (failing [decodePins blank]).pins.raw[0] ≠ 0x04 ∧
      (∀ p ∈ (decodePins blank :: []).take 0, p.rst = true ∨ p.inValid = false) ∧
      (decodePins blank :: [])[0]? = some (decodePins blank) ∧
      (decodePins blank).rst = false ∧ (decodePins blank).inValid = true ∧ (decodePins blank).raw[0] = 0x04) ∧
    ((∀ p ∈ (restPins :: [decodePins other]).take 1, p.rst = true ∨ p.inValid = false) ∧
      (restPins :: [decodePins other])[1]? = some (decodePins other) ∧
      (decodePins other).rst = false ∧ (decodePins other).inValid = true ∧ (decodePins other).raw[0] ≠ 0x04) := by
  decide

/-- What the next accepted decode leaves after the failing edge, in both cases of the witness (section 2.8 and
program P2 of spec/95_test_vectors.md). -/
theorem test_decode_after_failure :
    registersAfter (core.run 2 (failing [decodePins blank])) = some (okRegisters (reportOf false blank) true) ∧
      registersAfter (core.run 3 (failing [restPins, decodePins other])) = some (mismatchRegisters 0x05) := by
  decide

/-- A legal register set that holds no report: the registers after a mismatch. -/
theorem failed_legal : failed.Legal where
  statusNotReserved := by decide
  reportIffOk := by decide
  errIdIffMismatch := by decide
  reportIdIsStatusId := by simp [failed, mismatchRegisters]
  errIdIsNotStatusId := by simp [failed, mismatchRegisters, Config.statusId]
  notReadyIffBlank := by simp [failed, mismatchRegisters]
  doneNeedsDecode := by decide

/-- A legal register set that holds neither report nor identifier: the registers after reset. -/
theorem resetRegisters_legal : resetRegisters.Legal where
  statusNotReserved := by decide
  reportIffOk := by decide
  errIdIffMismatch := by decide
  reportIdIsStatusId := by simp [resetRegisters]
  errIdIsNotStatusId := by simp [resetRegisters]
  notReadyIffBlank := by simp [resetRegisters]
  doneNeedsDecode := by decide

theorem witness_ReadWithoutValueFaults :
    (holding failed false false other).regs = some failed ∧ failed.Legal ∧ failed.outStatus ≠ 0b01 ∧
      (holding resetRegisters false false other).regs = some resetRegisters ∧ resetRegisters.Legal ∧
      resetRegisters.outErrId = none :=
  ⟨rfl, failed_legal, by decide, rfl, resetRegisters_legal, rfl⟩
theorem witness_ReportPortsShowTheReport :
    (holding failed false true vectorA).regs = some failed ∧ vectorA[0] = 0x04 := by decide
theorem witness_StatusPortCodes :
    resetRegisters.outStatus = 0b00 ∧ (okRegisters (reportOf false vectorA) false).outStatus = 0b01 ∧
      failed.outStatus = 0b10 ∧ ({ failed with outStatus := 0b11 } : Registers).outStatus = 0b11 := by decide
theorem witness_EveryStepKeepsRegistersLegal :
    (holding failed false true vectorA).Inv ∧
      registersAfter (step (holding failed false true vectorA)) = some (okRegisters (reportOf false vectorA) false) := by
  refine ⟨fun r h => ?_, by decide⟩
  cases h
  exact failed_legal
theorem witness_DoneMarksAcceptedDecodes : (withPins false true vectorA).regs.isSome = true := by decide
theorem witness_ResetDiscardsADecode :
    (withPins true true vectorA).pins.rst = true ∧ (withPins true true vectorA).pins.inValid = true := by decide
theorem witness_OneResetEdgeBoots :
    (withPins true false other).pins.rst = true ∧ State.reset.ResetApplied := ⟨rfl, rfl⟩
theorem witness_UnknownUntilTheFirstReset : (State.powerUp restPins []).regs = none ∧ Instr.idle ≠ .reset :=
  ⟨rfl, by decide⟩
theorem witness_HistoryIsForgotten :
    (holding failed false true vectorA).ResetApplied ∧ (withPins false true vectorA).ResetApplied ∧
      (withPins false true vectorA).pins = (holding failed false true vectorA).pins ∧
      (withPins false true vectorA).upcoming = (holding failed false true vectorA).upcoming ∧
      ∃ p ∈ ((holding failed false true vectorA).pins :: (holding failed false true vectorA).upcoming).take 1,
        p.rst = true ∨ p.inValid = true :=
  ⟨rfl, rfl, rfl, rfl, _, List.mem_cons_self, .inr rfl⟩
theorem witness_TextRoundTrip : (Instr.decodeMismatch other).wellFormed = true := by decide
theorem witness_TextZeroPadding : ([] : List U4).length < 128 ∧ (List.replicate 127 (0 : U4)).length < 128 := by simp

end Sys2Proof.Tests
end

section
/-! PROOF. The statements of spec/10_state.md: which edge writes which register (R33), that every edge completes
(R26), `out_done` after an edge (R21), and the packing of the buffer on `raw_bus` (R19). -/

namespace Sys2Proof.Proofs
open Sys2Proof.Machine Sys2Proof.Stated

/-! ### What an edge does, row by row of the operation map (R48, R62) -/

theorem decode_of_rst {p : Pins} (hr : p.rst = true) : decode p = .ok .reset := by
  simp [decode_eq, hr]

theorem decode_of_idle {p : Pins} (hr : p.rst = false) (hv : p.inValid = false) : decode p = .ok .idle := by
  simp [decode_eq, hr, hv]

theorem decode_of_statusId {p : Pins} (hr : p.rst = false) (hv : p.inValid = true)
    (hid : p.raw[0] = Config.statusId) : decode p = .ok (.decodeStatus p.raw) := by
  simp [decode_eq, hr, hv, hid]

theorem decode_of_otherId {p : Pins} (hr : p.rst = false) (hv : p.inValid = true)
    (hid : p.raw[0] ≠ Config.statusId) : decode p = .ok (.decodeMismatch p.raw) := by
  simp [decode_eq, hr, hv, hid]

/-- The identifier check of the operation map is the one well-formedness asks for (R48). -/
theorem wellFormed_of_decode {p : Pins} {i : Instr} (hd : decode p = .ok i) : i.wellFormed = true := by
  rw [decode_eq, Except.ok.injEq] at hd
  subst hd
  split
  · rfl
  · split
    · split <;> simp_all [Instr.wellFormed]
    · rfl

/-- An edge is its operation and then the host's next levels (R62). -/
theorem step_of_decode {s t : State} {i : Instr} (hd : decode s.pins = .ok i) (he : exec i s = .next t) :
    step s = .next t.advancePins := by
  simp only [step, hd, he]

theorem step_of_rst {s : State} (hr : s.pins.rst = true) : step s = .next s.applyReset.advancePins :=
  step_of_decode (decode_of_rst hr) (exec_reset s)

theorem step_of_idle {s : State} (hr : s.pins.rst = false) (hv : s.pins.inValid = false) :
    step s = .next s.holdRegisters.advancePins :=
  step_of_decode (decode_of_idle hr hv) (exec_idle s)

theorem step_of_statusId {s : State} (hr : s.pins.rst = false) (hv : s.pins.inValid = true)
    (hid : s.pins.raw[0] = Config.statusId) :
    step s =
      .next (s.acceptReport (reportOf Config.validSwap s.pins.raw) (notReady s.pins.raw)).advancePins :=
  step_of_decode (decode_of_statusId hr hv hid) (exec_decodeStatus_of_id hid s)

theorem step_of_otherId {s : State} (hr : s.pins.rst = false) (hv : s.pins.inValid = true)
    (hid : s.pins.raw[0] ≠ Config.statusId) :
    step s = .next (s.takeProtocolMismatch s.pins.raw[0]).advancePins :=
  step_of_decode (decode_of_otherId hr hv hid) (exec_decodeMismatch s.pins.raw s)

/-- No operation term stops, so no edge does (R26, R62). -/
theorem exec_completes (i : Instr) (s : State) : ∃ t, exec i s = .next t := by
  obtain h | h | ⟨_, _, h⟩ | ⟨_, h⟩ := exec_cases i s <;> exact ⟨_, h⟩

/-! ### O5: the register write table -/

/-- Settles O5: one row of the table for each way the pins select an operation. -/
theorem registerWriteTable : Obligations.RegisterWriteTable := by
  intro s r hs
  refine ⟨fun hr => ⟨_, step_of_rst hr, ?_⟩, fun hr hv => ⟨_, step_of_idle hr hv, ?_⟩,
    fun hr hv hid => ⟨_, _, step_of_statusId hr hv hid, (decodeReport_eq_ok_iff _ _ _).2 ⟨hid, rfl⟩, ?_⟩,
    fun hr hv hid => ⟨_, step_of_otherId hr hv hid, ?_⟩⟩
  · rw [advancePins_regs, applyReset_regs]
    rfl
  · simp [hs]
  · simp [hs, okRegisters]
  · simp [hs, mismatchRegisters]

/-! ### O39: `out_done` after an edge -/

theorem readDone_of_regs {s : State} {r : Registers} (h : s.regs = some r) : readDone s = .value r.outDone :=
  readPort_of_regs h _

/-- Settles O39: the `out_done` column of the register write table. -/
theorem doneMarksAcceptedDecodes : Obligations.DoneMarksAcceptedDecodes := by
  intro s r hs
  obtain ⟨onReset, onIdle, onStatus, onMismatch⟩ := registerWriteTable s r hs
  cases hr : s.pins.rst with
  | true =>
    obtain ⟨t, ht, hregs⟩ := onReset hr
    exact ⟨t, ht, readDone_of_regs hregs⟩
  | false =>
    cases hv : s.pins.inValid with
    | false =>
      obtain ⟨t, ht, hregs⟩ := onIdle hr hv
      exact ⟨t, ht, readDone_of_regs hregs⟩
    | true =>
      by_cases hid : s.pins.raw[0] = 0x04
      · obtain ⟨t, rep, ht, -, hregs⟩ := onStatus hr hv hid
        exact ⟨t, ht, readDone_of_regs hregs⟩
      · obtain ⟨t, ht, hregs⟩ := onMismatch hr hv hid
        exact ⟨t, ht, readDone_of_regs hregs⟩

/-! ### O9: every edge completes, and the ports show the registers -/

/-- A port sees the registers and nothing else: no path runs from an input to an output (R26). -/
theorem readPort_congr {α : Type} {s s' : State} (h : s.regs = s'.regs) (port : Registers → ReadResult α) :
    s.readPort port = s'.readPort port := by
  simp only [State.readPort, h]

theorem statusPort_of_code {r : Registers} {st : Status} (h : r.outStatus = st.code) :
    r.statusPort = .value st := by
  simp [Registers.statusPort, h]

theorem errIdPort_of_some {r : Registers} {b : Byte} (h : r.outErrId = some b) : r.errIdPort = .value b := by
  simp [Registers.errIdPort, h]

/-- Settles O9: some row of the map always hits, no operation stops, and a port is a function of the registers. -/
theorem everyEdgeCompletes : Obligations.EveryEdgeCompletes := by
  refine ⟨fun s => ?_, fun s p ps => ?_, fun s r hs => ?_⟩
  · obtain ⟨t, ht⟩ := exec_completes _ s
    have hd := decode_eq s.pins
    exact ⟨_, t.advancePins, hd, wellFormed_of_decode hd, step_of_decode hd ht⟩
  · have sameRegs : State.regs { s with pins := p, upcoming := ps } = s.regs := rfl
    exact ⟨readPort_congr sameRegs _, readPort_congr sameRegs _, readPort_congr sameRegs _,
      readPort_congr sameRegs _, fun f => readPort_congr sameRegs _⟩
  · refine ⟨fun st h => ?_, readDone_of_regs hs, readPort_of_regs hs _, fun b h => ?_, fun rep f h => ?_⟩
    · exact (readPort_of_regs hs _).trans (statusPort_of_code h)
    · exact (readPort_of_regs hs _).trans (errIdPort_of_some h)
    · exact (readPort_of_regs hs _).trans (reportView_some h _)

/-! ### O14: the packing of the buffer on `raw_bus` -/

/-- Each byte of a buffer is a digit in base 256. -/
theorem byteDigit_lt (raw : RawReport) : ∀ d ∈ raw.toList.map BitVec.toNat, d < 256 := by
  intro d hd
  obtain ⟨b, -, rfl⟩ := List.mem_map.1 hd
  exact b.isLt

/-- A number of `k` base-256 digits fits on `8 * k` wires. -/
theorem toNat_ofNat_of_lt_pow {n k w : Nat} (h : n < 256 ^ k) (hw : w = 8 * k) :
    (BitVec.ofNat w n).toNat = n := by
  rw [BitVec.toNat_ofNat, Nat.mod_eq_of_lt]
  rwa [hw, Nat.pow_mul]

/-- The bus reads as the number whose base-256 digits, low digit first, are the bytes (R19). -/
theorem busOfRaw_toNat (raw : RawReport) :
    (busOfRaw raw).toNat = Nat.ofDigits 256 (raw.toList.map BitVec.toNat) := by
  have folded : raw.toList.foldr (fun b n => b.toNat + 256 * n) 0 =
      Nat.ofDigits 256 (raw.toList.map BitVec.toNat) := by
    simp [Nat.ofDigits_eq_foldr, List.foldr_map]
  have bound : Nat.ofDigits 256 (raw.toList.map BitVec.toNat) < 256 ^ 64 := by
    simpa using Nat.ofDigits_lt_base_pow_length (by decide) (byteDigit_lt raw)
  rw [busOfRaw, folded]
  exact toNat_ofNat_of_lt_pow bound rfl

theorem busOfRaw_byte (raw : RawReport) (i : Nat) (h : i < 64) :
    (busOfRaw raw).extractLsb' (8 * i) 8 = raw[i] := by
  apply BitVec.eq_of_toNat_eq
  have hdrop : (raw.toList.map BitVec.toNat).drop i =
      raw[i].toNat :: (raw.toList.map BitVec.toNat).drop (i + 1) := by
    rw [List.drop_eq_getElem_cons (by simpa using h)]
    simp
  rw [BitVec.extractLsb'_toNat, Nat.shiftRight_eq_div_pow, Nat.pow_mul, busOfRaw_toNat,
    Nat.ofDigits_div_pow_eq_ofDigits_drop i (by decide) _ (byteDigit_lt raw), hdrop, Nat.ofDigits_cons]
  have := raw[i].isLt
  omega

theorem rawOfBus_byte (bus : BitVec 512) (i : Nat) (h : i < 64) :
    (rawOfBus bus)[i] = bus.extractLsb' (8 * i) 8 := by
  simp [rawOfBus]

/-- Bit `j` of the bus is bit `j % 8` of byte `j / 8`. -/
theorem bus_getLsbD_eq_byte (bus : BitVec 512) (j : Nat) :
    bus.getLsbD j = (bus.extractLsb' (8 * (j / 8)) 8).getLsbD (j % 8) := by
  rw [BitVec.getLsbD_extractLsb', Nat.div_add_mod]
  simp [Nat.mod_lt]

theorem bus_ext {a b : BitVec 512}
    (h : ∀ i < 64, a.extractLsb' (8 * i) 8 = b.extractLsb' (8 * i) 8) : a = b := by
  apply BitVec.eq_of_getLsbD_eq
  intro j hj
  rw [bus_getLsbD_eq_byte a, bus_getLsbD_eq_byte b, h (j / 8) (by omega)]

/-- Settles O14: both directions byte by byte; each inverse by comparing all 64 bytes. -/
theorem busPacking : Obligations.BusPacking := by
  refine ⟨busOfRaw_byte, rawOfBus_byte, fun raw => ?_, fun bus => bus_ext fun i h => ?_⟩
  · ext1 i h
    rw [rawOfBus_byte _ i h, busOfRaw_byte raw i h]
  · rw [busOfRaw_byte _ i h, rawOfBus_byte bus i h]

end Sys2Proof.Proofs
end

section
/-! PROOF. The statement of spec/20_memory.md: reading the buffer has no side effect, and a decode depends on the
sampled bytes alone (R41). -/

namespace Sys2Proof.Proofs
open Sys2Proof.Machine Sys2Proof.Stated

/-- An operation writes registers only; the pins and the later edges are the host's (R41). -/
theorem exec_frame {i : Instr} {s t : State} (h : exec i s = .next t) :
    t.pins = s.pins ∧ t.upcoming = s.upcoming := by
  obtain he | he | ⟨raw, -, he⟩ | ⟨b, he⟩ := exec_cases i s <;> cases he.symm.trans h
  · exact ⟨applyReset_pins s, applyReset_upcoming s⟩
  · exact ⟨holdRegisters_pins s, holdRegisters_upcoming s⟩
  · exact ⟨acceptReport_pins s _ _, acceptReport_upcoming s _ _⟩
  · exact ⟨takeProtocolMismatch_pins s b, takeProtocolMismatch_upcoming s b⟩

/-- The register set that a decode of a buffer leaves: the two decode rows of R33 as one function of the bytes. -/
def decodedRegisters (raw : RawReport) : Registers :=
  if raw[0] = Config.statusId then okRegisters (reportOf Config.validSwap raw) (notReady raw)
  else mismatchRegisters raw[0]

/-- The registers before the edge do not occur in the registers after it (R41). -/
theorem regs_of_decode_step {s t : State} {r : Registers} (hs : s.regs = some r) (hr : s.pins.rst = false)
    (hv : s.pins.inValid = true) (h : step s = .next t) : t.regs = some (decodedRegisters s.pins.raw) := by
  by_cases hid : s.pins.raw[0] = Config.statusId
  · cases (step_of_statusId hr hv hid).symm.trans h
    simp [hs, decodedRegisters, hid, okRegisters]
  · cases (step_of_otherId hr hv hid).symm.trans h
    simp [hs, decodedRegisters, hid, mismatchRegisters]

/-- Settles O41: the frame of every operation, and both register sets as the same function of the sampled bytes. -/
theorem decodingIsPure : Obligations.DecodingIsPure := by
  refine ⟨fun _ _ _ h => exec_frame h, ?_⟩
  intro s s' t t' r r' hs hs' hr hv hp ht ht'
  have after : t.regs = some (decodedRegisters s.pins.raw) := regs_of_decode_step hs hr hv ht
  have after' : t'.regs = some (decodedRegisters s'.pins.raw) :=
    regs_of_decode_step hs' (by rw [hp, hr]) (by rw [hp, hv]) ht'
  rw [after, after', hp]

end Sys2Proof.Proofs
end

section
/-! PROOF. The statements of spec/30_encoding.md: the operation word and the operation map (R47, R48), and how the
bytes of a decoded report stand in its fields (R55, R56, R57). -/

namespace Sys2Proof.Proofs
open Sys2Proof.Machine Sys2Proof.Stated

/-! ### O6: the operation word -/

theorem opw_rst (p : Pins) : (opw p).getLsbD 9 = p.rst := by
  rw [opw_eq_append, BitVec.getLsbD_append, BitVec.getLsbD_append]
  simp

theorem opw_inValid (p : Pins) : (opw p).getLsbD 8 = p.inValid := by
  rw [opw_eq_append, BitVec.getLsbD_append, BitVec.getLsbD_append]
  simp

theorem opw_low_bit (p : Pins) {i : Nat} (h : i < 8) : (opw p).getLsbD i = p.raw[0].getLsbD i := by
  rw [opw_eq_append, BitVec.getLsbD_append, if_pos h]

theorem opw_identifier (p : Pins) : (opw p).extractLsb' 0 8 = p.raw[0] := by
  apply BitVec.eq_of_getLsbD_eq
  intro i h
  rw [BitVec.getLsbD_extractLsb', Nat.zero_add, opw_low_bit p h]
  simp [h]

theorem withSample_injective (raw : RawReport) : Function.Injective (Operation.withSample · raw) := by
  intro o o' h
  cases o <;> cases o' <;> simp_all

/-- The edge performs an operation exactly when the map selects it on OPW: the buffer adds the sample only. -/
theorem decode_eq_withSample_iff (p : Pins) (o : Operation) :
    decode p = .ok (o.withSample p.raw) ↔ selectOperation (opw p) = some o := by
  unfold decode
  cases selectOperation (opw p) with
  | none => simp
  | some o' => simpa using (withSample_injective p.raw).eq_iff

/-- Settles O6: the parts of the concatenation, and the selection as a function of OPW. -/
theorem operationWordIsThePins : Obligations.OperationWordIsThePins := by
  refine ⟨fun p => ⟨opw_rst p, opw_inValid p, opw_identifier p⟩, fun p q o hw hp => ?_⟩
  rw [decode_eq_withSample_iff] at hp ⊢
  rwa [← hw]

/-! ### O7: the operation map -/

/-- One row of a map in priority order: its operation when it matches, else what the later rows select. -/
theorem selectFrom_cons (row : OpRow) (rows : List OpRow) (w : BitVec 10) :
    ((row :: rows).find? (·.hits w)).map (·.operation) =
      if w &&& row.mask = row.pattern then some row.operation
      else (rows.find? (·.hits w)).map (·.operation) := by
  split
  · next h => rw [List.find?_cons_of_pos (by simpa [OpRow.hits] using h), Option.map_some]
  · next h => rw [List.find?_cons_of_neg (by simpa [OpRow.hits] using h)]

/-- Every 10-bit word is the OPW of some pins. -/
theorem opw_surjective (w : BitVec 10) : ∃ p, opw p = w := by
  refine ⟨{ rst := w.getLsbD 9, inValid := w.getLsbD 8, raw := zeroRaw.set 0 (w.extractLsb' 0 8) }, ?_⟩
  apply BitVec.eq_of_getLsbD_eq
  intro i h
  obtain h8 | rfl | rfl : i < 8 ∨ i = 8 ∨ i = 9 := by omega
  · rw [opw_low_bit _ h8]
    simp [h8]
  · exact opw_inValid _
  · exact opw_rst _

/-- Some row always matches (R48). -/
theorem selectOperation_isSome (w : BitVec 10) : (selectOperation w).isSome = true := by
  obtain ⟨p, rfl⟩ := opw_surjective w
  rw [opw_eq_append, selectOperation_append]
  rfl

/-- Settles O7: the search of the map row by row. -/
theorem operationMapInPriorityOrder : Obligations.OperationMapInPriorityOrder := by
  refine fun w => ⟨?_, selectOperation_isSome w⟩
  simp only [selectOperation, opRows, selectFrom_cons]
  rfl

/-! ### O16, O17, O18: the fields of a decoded report -/

theorem eq_reportOf_of_decodeReport {swap : Bool} {raw : RawReport} {r : StatusReport}
    (h : decodeReport swap raw = .ok r) : r = reportOf swap raw :=
  ((decodeReport_eq_ok_iff swap raw r).1 h).2

/-- The offsets of the eight samples (R51). -/
theorem reportOf_samples (swap : Bool) (raw : RawReport) :
    (reportOf swap raw).samples.toList =
      [sampleAt raw 4, sampleAt raw 8, sampleAt raw 12, sampleAt raw 16, sampleAt raw 28, sampleAt raw 46,
       sampleAt raw 50, sampleAt raw 54] := rfl

theorem flags16_getElem (w : U16) (i : Nat) (h : i < 16) : (flags16 w)[i] = w.getLsbD (15 - i) := by
  simp [flags16]

/-- Settles O16: a pair's two halves, and the report's words at their offsets. -/
theorem swappedFieldAssembly : Obligations.SwappedFieldAssembly := by
  refine ⟨fun raw k h => ⟨pair_high _ _, pair_low _ _⟩, fun swap raw r hr => ?_⟩
  obtain rfl := eq_reportOf_of_decodeReport hr
  refine ⟨?_, rfl, rfl, rfl⟩
  rw [reportOf_samples]
  rfl

/-- Settles O17: the two byte orders, and flag `i` as a bit of the word that was decoded. -/
theorem validWordAssembly : Obligations.ValidWordAssembly := by
  refine ⟨fun raw => ⟨rfl, rfl⟩, rfl, fun swap raw r hr => ?_⟩
  obtain rfl := eq_reportOf_of_decodeReport hr
  exact ⟨rfl, flags16_getElem _⟩

/-- Settles O18: the bytes at their offsets, and each raw block element by element. -/
theorem byteAndBlockAssembly : Obligations.ByteAndBlockAssembly := by
  intro swap raw r hr
  obtain rfl := eq_reportOf_of_decodeReport hr
  refine ⟨rfl, rfl, ?_, ?_, rawn_getElem raw 32 8 (by decide),
    rawn_getElem raw 40 2 (by decide), rawn_getElem raw 58 6 (by decide)⟩
  · simp [reportOf_samples]
  · simp [reportOf_samples]

end Sys2Proof.Proofs
end

section
/-! PROOF. The statements of spec/40_operations.md: the four operations, each selected by its pins and with its
whole effect (R63, R64, R65, R67), and DECODE, the combinational core (R66). -/

namespace Sys2Proof.Proofs
open Sys2Proof.Machine Sys2Proof.Stated

/-! ### The pins in OPW, and the register writes once a reset edge has been applied -/

/-- OPW[9:8] are the two control pins (R47). -/
theorem opw_control (p : Pins) :
    (opw p).extractLsb' 8 2 = BitVec.ofBool p.rst ++ BitVec.ofBool p.inValid := by
  rw [opw_eq_append, BitVec.extractLsb'_append_eq_left]

theorem writeRegisters_of_regs {s : State} {r : Registers} (hs : s.regs = some r) (f : Registers → Registers) :
    s.writeRegisters f = { s with regs := some (f r) } := by
  rw [State.writeRegisters, hs, Option.map_some]

theorem holdRegisters_of_regs {s : State} {r : Registers} (hs : s.regs = some r) :
    s.holdRegisters = { s with regs := some { r with outDone := false } } :=
  writeRegisters_of_regs hs _

theorem acceptReport_of_regs {s : State} {r : Registers} (hs : s.regs = some r) (rep : StatusReport)
    (signature : Bool) : s.acceptReport rep signature = { s with regs := some (okRegisters rep signature) } :=
  writeRegisters_of_regs hs _

theorem takeProtocolMismatch_of_regs {s : State} {r : Registers} (hs : s.regs = some r) (actual : Byte) :
    s.takeProtocolMismatch actual = { s with regs := some (mismatchRegisters actual) } :=
  writeRegisters_of_regs hs _

/-! ### O2: IDLE and a run of IDLE edges -/

/-- A run of IDLE edges clears `out_done` at its first edge and holds every other register to its last (R64). -/
theorem run_of_idle_edges (n : Nat) (s : State) (r : Registers) (hs : s.regs = some r)
    (hn : n ≤ s.upcoming.length)
    (hidle : ∀ p ∈ s.pins :: s.upcoming.take n, p.rst = false ∧ p.inValid = false) :
    ∃ t, core.run (n + 1) s = .next t ∧ t.regs = some { r with outDone := false } := by
  induction n generalizing s r with
  | zero =>
    obtain ⟨hr, hv⟩ := hidle s.pins List.mem_cons_self
    exact ⟨_, run_of_step (step_of_idle hr hv) 0, by simp [hs]⟩
  | succ n ih =>
    obtain ⟨hr, hv⟩ := hidle s.pins List.mem_cons_self
    obtain ⟨p, ps, hup⟩ := List.exists_cons_of_length_pos (Nat.lt_of_lt_of_le n.succ_pos hn)
    have first : step s = .next { s.holdRegisters with pins := p, upcoming := ps } := by
      rw [step_of_idle hr hv, advancePins_of_cons (s := s.holdRegisters) hup]
    rw [hup] at hn hidle
    rw [run_of_step first]
    exact ih _ { r with outDone := false } (by simp [hs]) (Nat.le_of_succ_le_succ hn)
      fun q hq => hidle q (List.mem_cons_of_mem _ hq)

/-- Settles O2: the control pins, the single register write, and a run by induction on its edges. -/
theorem idleClearsDoneOnly : Obligations.IdleClearsDoneOnly := by
  refine ⟨fun p hr hv => ⟨?_, decode_of_idle hr hv⟩, fun s r hs => ?_, run_of_idle_edges⟩
  · rw [opw_control, hr, hv]
    rfl
  · rw [exec_idle, holdRegisters_of_regs hs]

/-! ### O15: DECODE writes out every field -/

/-- Every extractor at its offset is the concatenation or block of bytes that R51 names there: field by field the
two tables unfold to the same bytes. -/
theorem reportOf_eq_reportBytes (swap : Bool) (raw : RawReport) :
    reportOf swap raw = reportBytes swap raw := rfl

/-- Settles O15: the two branches of the identifier check. -/
theorem decodeGivesEveryField : Obligations.DecodeGivesEveryField := fun swap raw =>
  ⟨fun hid => (decodeReport_eq_mismatch_iff swap raw _).2 ⟨hid, rfl⟩,
    fun hid => (decodeReport_eq_ok_iff swap raw _).2 ⟨hid, (reportOf_eq_reportBytes swap raw).symm⟩⟩

/-! ### O3: DECODE_STATUS -/

/-- NOT_READY computes the signature (R105). -/
theorem notReady_eq_true_iff (raw : RawReport) : notReady raw = true ↔ Signature raw := by
  have zeros : (∀ i : Fin 64, 2 ≤ i.val → i.val < Config.notReadyEnd → raw[i] = 0) ↔
      ∀ (i : Nat) (h : i < 64), 2 ≤ i → i < 59 → raw[i] = 0 :=
    ⟨fun all i h => all ⟨i, h⟩, fun all i => all i.val i.isLt⟩
  rw [notReady, Bool.and_eq_true, Bool.and_eq_true, beq_iff_eq, beq_iff_eq, decide_eq_true_iff, zeros, and_assoc]
  rfl

/-- OPW selects DECODE_STATUS by all its ten bits (R48). -/
theorem opw_of_statusId {p : Pins} (hr : p.rst = false) (hv : p.inValid = true) (hid : p.raw[0] = 0x04) :
    opw p = 0x104 := by
  rw [opw_eq_append, hr, hv, hid]
  rfl

/-- Settles O3: the operation word, and the register set in bytes with NOT_READY as the signature bit. -/
theorem decodeStatusWritesTheReport : Obligations.DecodeStatusWritesTheReport := by
  refine ⟨fun p hr hv hid => ⟨opw_of_statusId hr hv hid, decode_of_statusId hr hv hid⟩, fun raw s r hid hs => ?_⟩
  refine ⟨notReady raw, notReady_eq_true_iff raw, ?_⟩
  rw [exec_decodeStatus_of_id hid, acceptReport_of_regs hs, reportOf_eq_reportBytes]

/-! ### O1: RESET -/

/-- The reset values are the same from every state, the unknown one among them (R32, R63). -/
theorem applyReset_eq (s : State) : s.applyReset = { s with regs := some resetRegisters } := rfl

/-- Settles O1: OPW bit 9 is `rst`, and a second RESET writes what the registers already hold. -/
theorem resetWritesResetValues : Obligations.ResetWritesResetValues := by
  refine ⟨fun p hr => ⟨(opw_rst p).trans hr, decode_of_rst hr⟩, fun s => ?_, fun s t h => ?_⟩
  · rw [exec_reset, applyReset_eq]
  · cases h
    rw [exec_reset, applyReset_eq, applyReset_eq]

/-! ### O4: DECODE_MISMATCH -/

/-- Settles O4: the control pins, and a register set that reads byte 0 of the buffer alone. -/
theorem decodeMismatchRecordsTheIdentifier : Obligations.DecodeMismatchRecordsTheIdentifier := by
  refine ⟨fun p hr hv hid => ⟨?_, decode_of_otherId hr hv hid⟩, fun raw s r _ hs => ?_⟩
  · rw [opw_control, hr, hv]
    rfl
  · rw [exec_decodeMismatch, takeProtocolMismatch_of_regs hs]

end Sys2Proof.Proofs
end

section
/-! PROOF. The two flag extractors of spec/41_extractors.md: FLAGS16 (R76) and STATUS8 (R77). -/

namespace Sys2Proof.Proofs
open Sys2Proof.Machine

/-! ### O21: FLAGS16 -/

/-- A word with the single bit `15 - j` gives the single flag `j` (R76). -/
theorem flags16_twoPow_getElem (j i : Nat) (hj : j < 16) (hi : i < 16) :
    (flags16 (BitVec.twoPow 16 (15 - j)))[i] = decide (i = j) := by
  rw [flags16_getElem, BitVec.getLsbD_twoPow, ← Bool.decide_and, decide_eq_decide]
  omega

/-- The zero word gives no flag (R76). -/
theorem flags16_zero_getElem (i : Nat) (h : i < 16) : (flags16 0x0000)[i] = false := by
  rw [flags16_getElem]
  exact BitVec.getLsbD_zero

/-- Settles O21: flag `i` as a bit of the word; 0x8000 is the word whose single bit is bit 15. -/
theorem validFlagOrdinals : Obligations.ValidFlagOrdinals :=
  ⟨flags16_getElem, fun _ => rfl, fun i h => flags16_twoPow_getElem 0 i (by decide) h, flags16_zero_getElem⟩

/-! ### O22: STATUS8 -/

/-- The low nibble of a status byte as a number (R77). -/
theorem status8_unknown_toNat (s : Byte) : (status8 s).unknown.toNat = s.toNat % 16 := by
  rw [status8, BitVec.extractLsb'_toNat, Nat.shiftRight_zero]

/-- Settles O22: the named flags are read off the definition, and `unknown` is the remainder by 16. -/
theorem statusByteFlags : Obligations.StatusByteFlags :=
  ⟨fun s => ⟨rfl, rfl, rfl, rfl, status8_unknown_toNat s⟩, fun _ => rfl⟩

end Sys2Proof.Proofs
end

section
/-! PROOF. The statements of spec/43_not_ready.md: the not-ready signature (R105) and the edges that write it into
`out_not_ready` (R106). -/

namespace Sys2Proof.Proofs
open Sys2Proof.Machine Sys2Proof.Stated

/-! ### O29: NOT_READY is the signature -/

/-- Settles O29: the predicate by its own equivalence, and its register by the DECODE_STATUS row of the table. -/
theorem notReadyIsTheSignature : Obligations.NotReadyIsTheSignature := by
  refine ⟨notReady_eq_true_iff, fun s r hs hr hv hid => ?_⟩
  obtain ⟨-, -, onStatus, -⟩ := registerWriteTable s r hs
  obtain ⟨t, rep, ht, -, hregs⟩ := onStatus hr hv hid
  exact ⟨t, okRegisters rep (notReady s.pins.raw), ht, hregs, notReady_eq_true_iff s.pins.raw⟩

/-! ### O32: which edge writes `out_not_ready` -/

/-- A step has one outcome, so what is known of the registers after it holds of every account of that step. -/
theorem registers_after_step_unique {s t u : State} {r q : Registers} (ht : step s = .next t)
    (hu : step s = .next u) (hr : t.regs = some r) (hq : u.regs = some q) : r = q := by
  cases ht.symm.trans hu
  exact Option.some.inj (hr.symm.trans hq)

/-- Settles O32: the `out_not_ready` column of the register write table. -/
theorem notReadyRegisterUpdate : Obligations.NotReadyRegisterUpdate := by
  intro s t r r' hs ht hr'
  obtain ⟨onReset, onIdle, onStatus, onMismatch⟩ := registerWriteTable s r hs
  refine ⟨fun hr => ?_, fun hr hv => ?_, fun hr hv hid => ?_, fun hr hv hid => ?_⟩
  · obtain ⟨u, hu, hregs⟩ := onReset hr
    cases registers_after_step_unique ht hu hr' hregs
    rfl
  · obtain ⟨u, hu, hregs⟩ := onIdle hr hv
    cases registers_after_step_unique ht hu hr' hregs
    rfl
  · obtain ⟨u, rep, hu, -, hregs⟩ := onStatus hr hv hid
    cases registers_after_step_unique ht hu hr' hregs
    rfl
  · obtain ⟨u, hu, hregs⟩ := onMismatch hr hv hid
    cases registers_after_step_unique ht hu hr' hregs
    rfl

end Sys2Proof.Proofs
end

section
/-! PROOF. The statement of spec/60_exceptions.md: when ProtocolMismatch is raised, what it records, and that the
block goes on (R110). -/

namespace Sys2Proof.Proofs
open Sys2Proof.Machine Sys2Proof.Stated

/-! ### What every edge keeps -/

/-- Once the registers hold values, no edge takes them away (R124). -/
theorem step_keeps_values {s t : State} {r : Registers} (hs : s.regs = some r) (h : step s = .next t) :
    ∃ r', t.regs = some r' := by
  obtain ⟨-, rfl⟩ | ⟨-, -, rfl⟩ | ⟨-, -, -, rfl⟩ | ⟨-, -, -, rfl⟩ := step_cases h
  · exact ⟨_, advancePins_regs _⟩
  · exact ⟨_, by rw [advancePins_regs, holdRegisters_of_regs hs]⟩
  · exact ⟨_, by rw [advancePins_regs, acceptReport_of_regs hs]⟩
  · exact ⟨_, by rw [advancePins_regs, takeProtocolMismatch_of_regs hs]⟩

/-- After any edge the host presents the next levels it listed, and one listed edge fewer (R17, R62). -/
theorem step_presents_next_edge {s t : State} {p : Pins} {ps : List Pins} (h : step s = .next t)
    (hup : s.upcoming = p :: ps) : t.pins = p ∧ t.upcoming = ps := by
  obtain ⟨v, hv⟩ := exec_completes _ s
  have hupv : v.upcoming = p :: ps := (exec_frame hv).2.trans hup
  cases (step_of_decode (decode_eq s.pins) hv).symm.trans h
  rw [advancePins_of_cons hupv]
  exact ⟨rfl, rfl⟩

/-! ### A decode that the host lists has its whole effect -/

theorem decodedRegisters_of_statusId {raw : RawReport} (hid : raw[0] = Config.statusId) :
    decodedRegisters raw = okRegisters (reportOf Config.validSwap raw) (notReady raw) :=
  if_pos hid

theorem decodedRegisters_of_otherId {raw : RawReport} (hid : raw[0] ≠ Config.statusId) :
    decodedRegisters raw = mismatchRegisters raw[0] :=
  if_neg hid

/-- A run up to a listed decode edge leaves the registers of that edge's sample: no operation of the edges before it
can stop the block or change what it does (R41, R110, R113). -/
theorem run_to_listed_decode (k : Nat) (s : State) (r : Registers) (q : Pins) (hs : s.regs = some r)
    (hq : (s.pins :: s.upcoming)[k]? = some q) (hr : q.rst = false) (hv : q.inValid = true) :
    ∃ u, core.run (k + 1) s = .next u ∧ u.regs = some (decodedRegisters q.raw) := by
  induction k generalizing s r with
  | zero =>
    obtain rfl : s.pins = q := Option.some.inj hq
    obtain ⟨_, t, -, -, ht⟩ := everyEdgeCompletes.1 s
    exact ⟨t, run_of_step ht 0, regs_of_decode_step hs hr hv ht⟩
  | succ k ih =>
    obtain ⟨_, t, -, -, ht⟩ := everyEdgeCompletes.1 s
    obtain ⟨r', ht'⟩ := step_keeps_values hs ht
    rw [List.getElem?_cons_succ] at hq
    rw [run_of_step ht]
    refine ih t r' ht' ?_
    cases hup : s.upcoming with
    | nil => simp [hup] at hq
    | cons p ps =>
      obtain ⟨hp, hps⟩ := step_presents_next_edge ht hup
      rwa [hp, hps, ← hup]

/-! ### O33: ProtocolMismatch -/

/-- The status is MISMATCH with `out_done` 1 exactly after an accepted edge with another identifier: RESET and IDLE
clear `out_done`, and DECODE_STATUS writes OK (R33, R110). -/
theorem mismatch_after_step_iff {s t : State} {r r' : Registers} (hs : s.regs = some r)
    (h : step s = .next t) (hr' : t.regs = some r') :
    (r'.outStatus = 0b10 ∧ r'.outDone = true) ↔
      (s.pins.rst = false ∧ s.pins.inValid = true ∧ s.pins.raw[0] ≠ 0x04) := by
  obtain ⟨hr, rfl⟩ | ⟨hr, hv, rfl⟩ | ⟨-, -, hid, rfl⟩ | ⟨hr, hv, hid, rfl⟩ := step_cases h <;>
    rw [advancePins_regs] at hr'
  · cases hr'
    simp [hr]
  · cases (congrArg State.regs (holdRegisters_of_regs hs)).symm.trans hr'
    simp [hr, hv]
  · cases (congrArg State.regs (acceptReport_of_regs hs _ _)).symm.trans hr'
    simp [okRegisters, hid, Config.statusId]
  · cases (congrArg State.regs (takeProtocolMismatch_of_regs hs _)).symm.trans hr'
    exact iff_of_true ⟨rfl, rfl⟩ ⟨hr, hv, hid⟩

/-- Settles O33: the mismatch row of the register write table, and the run to the next accepted decode.  The edges
before that decode may be any edges at all, so that they accept none is not used. -/
theorem protocolMismatchIsTheOnlyFailure : Obligations.ProtocolMismatchIsTheOnlyFailure := by
  intro s r hs
  obtain ⟨_, t, -, -, ht⟩ := everyEdgeCompletes.1 s
  obtain ⟨r', hr'⟩ := step_keeps_values hs ht
  refine ⟨t, r', ht, hr', mismatch_after_step_iff hs ht hr', fun hr hv hid => ⟨?_, fun k q _ hq hqr hqv => ?_⟩⟩
  · obtain ⟨-, -, -, onMismatch⟩ := registerWriteTable s r hs
    obtain ⟨u, hu, hregs⟩ := onMismatch hr hv hid
    exact registers_after_step_unique ht hu hr' hregs
  · obtain ⟨u, hu, hregs⟩ := run_to_listed_decode k t r' q hr' hq hqr hqv
    refine ⟨u, hu, fun hid => ?_, fun hid => ?_⟩
    · exact ⟨_, (decodeReport_eq_ok_iff _ _ _).2 ⟨hid, rfl⟩, hregs.trans (by rw [decodedRegisters_of_statusId hid])⟩
    · rw [hregs, decodedRegisters_of_otherId hid]

end Sys2Proof.Proofs
end

section
/-! PROOF. The statements of spec/70_reset_and_hazards.md: a read without a value faults (R130), and a reset edge
discards a decode presented with it (R131). -/

namespace Sys2Proof.Proofs
open Sys2Proof.Machine Sys2Proof.Stated

/-! ### O34: reading without a value -/

/-- Under any status but OK a legal register set holds no report (R22). -/
theorem report_eq_none_of_not_ok {r : Registers} (legal : r.Legal) (h : r.outStatus ≠ Status.code .ok) :
    r.report = none :=
  Option.not_isSome_iff_eq_none.1 (mt legal.reportIffOk.1 h)

theorem errIdPort_of_none {r : Registers} (h : r.outErrId = none) : r.errIdPort = .fault .errIdHoldsNoValue := by
  simp [Registers.errIdPort, h]

/-- With no report held, every view of the report register faults through its port (R22). -/
theorem readPort_reportView_of_none {α : Type} {s : State} {r : Registers} (hs : s.regs = some r)
    (h : r.report = none) (view : StatusReport → α) :
    (s.readPort fun r => r.reportView view) = .fault .reportHoldsNoValue :=
  (readPort_of_regs hs _).trans (reportView_none h view)

/-- Settles O34: each report port is a view of the one report register, which is empty unless the status is OK. -/
theorem readWithoutValueFaults : Obligations.ReadWithoutValueFaults := by
  refine fun s r hs legal => ⟨fun hstatus => ?_, fun herr => ?_⟩
  · have empty : r.report = none := report_eq_none_of_not_ok legal hstatus
    exact ⟨fun _ => readPort_reportView_of_none hs empty _, fun _ => readPort_reportView_of_none hs empty _,
      fun _ => readPort_reportView_of_none hs empty _⟩
  · exact (readPort_of_regs hs _).trans (errIdPort_of_none herr)

/-! ### O42: reset at a decode edge -/

/-- An edge with `rst` = 1 leaves the reset values, whatever the registers and the other pins were (R63, R122). -/
theorem regs_after_reset_edge {s : State} (hr : s.pins.rst = true) :
    ∃ t, step s = .next t ∧ t.regs = some resetRegisters :=
  ⟨_, step_of_rst hr, by rw [advancePins_regs, applyReset_eq]⟩

/-- Settles O42: a reset edge with another buffer on the bus is a reset edge too.  The reset row of R48 does not read
`in_valid`, so that a decode is presented is not used. -/
theorem resetDiscardsADecode : Obligations.ResetDiscardsADecode := by
  intro s hr _
  obtain ⟨t, ht, hregs⟩ := regs_after_reset_edge hr
  refine ⟨t, ht, hregs, readDone_of_regs hregs, fun raw => ?_⟩
  obtain ⟨u, hu, hregs'⟩ := regs_after_reset_edge (s := { s with pins := { s.pins with raw := raw } }) hr
  exact ⟨u, hu, hregs'.trans hregs.symm⟩

end Sys2Proof.Proofs
end

section
/-! PROOF. The byte form of an edge (log entry 9), the encoder, and the step of R62 as the model arranges it. -/

namespace Sys2Proof.Proofs
open Sys2Proof.Machine Sys2Proof.Stated

/-! ### O12: decode of encode on bytes -/

/-- The second byte of the byte form holds the two control pins and nothing above them. -/
theorem controlByte_bits (rst valid : Bool) :
    ((BitVec.ofBool rst ++ BitVec.ofBool valid).setWidth 8 : Byte).toNat < 4 ∧
    ((BitVec.ofBool rst ++ BitVec.ofBool valid).setWidth 8 : Byte).getLsbD 1 = rst ∧
    ((BitVec.ofBool rst ++ BitVec.ofBool valid).setWidth 8 : Byte).getLsbD 0 = valid := by
  cases rst <;> cases valid <;> decide

/-- The byte form: `raw[0]`, the control pins, then bytes 1 to 63. -/
theorem edgeBytes_eq (p : Pins) :
    edgeBytes p =
      p.raw[0] :: (BitVec.ofBool p.rst ++ BitVec.ofBool p.inValid).setWidth 8 :: p.raw.toList.drop 1 := by
  rw [edgeBytes, opw_identifier, opw_control]

theorem edgeBytes_length (p : Pins) : (edgeBytes p).length = 65 := by
  simp [edgeBytes]

/-- Byte 0 and the list of bytes 1 to 63 are the whole buffer. -/
theorem pinsOfBytes_raw_of_tail (raw : RawReport) (b1 : Byte) :
    (pinsOfBytes raw[0] b1 (raw.toList.drop 1)).raw = raw := by
  ext1 i h
  cases i with
  | zero => exact pinsOfBytes_raw_zero _ _ _
  | succ i =>
    rw [pinsOfBytes_raw_succ _ _ _ i h]
    simp [List.getD, h]

/-- Reading an edge's byte form gives its pins. -/
theorem readEdge_edgeBytes (p : Pins) : readEdge (edgeBytes p) = .ok p := by
  obtain ⟨hlt, hrst, hvalid⟩ := controlByte_bits p.rst p.inValid
  have hlen : (p.raw.toList.drop 1).length ≤ 63 := by simp
  rw [edgeBytes_eq, readEdge, if_pos hlt, if_pos hlen, Except.ok.injEq, Pins.mk.injEq]
  exact ⟨hrst, hvalid, pinsOfBytes_raw_of_tail p.raw _⟩

/-- The pins of a well-formed operation select it (R48, R61). -/
theorem decode_encode {i : Instr} (h : i.wellFormed = true) : decode (encode i) = .ok i := by
  cases i with
  | reset => exact decode_of_rst rfl
  | idle => exact decode_of_idle rfl rfl
  | decodeStatus raw => exact decode_of_statusId rfl rfl (by simpa [Instr.wellFormed] using h)
  | decodeMismatch raw => exact decode_of_otherId rfl rfl (by simpa [Instr.wellFormed] using h)

/-- Settles O12: the byte form keeps every pin, and the pins select the operation. -/
theorem decodeOfEncodeBytes : Obligations.DecodeOfEncodeBytes := by
  refine fun i h => ⟨edgeBytes_length _, ?_⟩
  simp only [decodeBytes, encodeBytes, readEdge_edgeBytes]
  exact decode_encode h

/-! ### O13: encode of decode -/

/-- A decode edge is encoded by its own pins. -/
theorem encode_of_decode_edge {p : Pins} {i : Instr} (hd : decode p = .ok i) (hr : p.rst = false)
    (hv : p.inValid = true) : encode i = p := by
  have pins : p = { rst := false, inValid := true, raw := p.raw } := by rw [← hr, ← hv]
  by_cases hid : p.raw[0] = Config.statusId
  · cases (decode_of_statusId hr hv hid).symm.trans hd
    rw [encode_decodeStatus, ← pins]
  · cases (decode_of_otherId hr hv hid).symm.trans hd
    rw [encode_decodeMismatch, ← pins]

/-- Settles O13: the identifier check of the map, then decode of encode. -/
theorem encodeOfDecode : Obligations.EncodeOfDecode := fun _ _ hd =>
  ⟨wellFormed_of_decode hd, decode_encode (wellFormed_of_decode hd), encode_of_decode_edge hd⟩

/-! ### O11, O10: table words -/

/-- Whatever byte list reads as an edge reads as the pins of its bytes. -/
theorem pinsOfBytes_of_readEdge {b0 b1 : Byte} {rest : List Byte} {p : Pins}
    (h : readEdge (b0 :: b1 :: rest) = .ok p) : p = pinsOfBytes b0 b1 rest := by
  rw [readEdge] at h
  split at h
  · split at h <;> cases h
    rfl
  · cases h

/-- What a table word decodes to is what its pins select. -/
theorem decode_pinsOfTableWord {nbits w : Nat} {i : Instr} (h : decodeTableWord nbits w = some i) :
    decode (pinsOfTableWord nbits w) = .ok i := by
  unfold decodeTableWord decodeBytes at h
  split at h
  case h_2 => cases h
  case h_1 j hj =>
    cases h
    split at hj
    case h_2 => cases hj
    case h_1 p hp => rwa [pinsOfBytes_of_readEdge hp] at hj

/-- Settles O11: `withFetchWord` puts the word's pins in place and touches nothing else. -/
theorem fetchedWordIsTheNextOperation : Obligations.FetchedWordIsTheNextOperation := fun s nbits w _ h =>
  ⟨decode_pinsOfTableWord h, withFetchWord_regs s nbits w, withFetchWord_upcoming s nbits w⟩

/-- Settles O10: five closed words, each evaluated by the decoder. -/
theorem tableWordsDecode : Obligations.TableWordsDecode := by
  refine ⟨?_, ?_, ?_, ?_, ?_⟩ <;> decide

/-! ### O8: the step -/

/-- Settles O8: each outcome of the operation is the step's, and a next state moves on to the host's next levels. -/
theorem stepRunsTheDecodedOperation : Obligations.StepRunsTheDecodedOperation := by
  refine fun s i hd => ⟨fun t he => ?_, fun why he => ?_, fun why he => ?_⟩
  · obtain ⟨-, hup⟩ := exec_frame he
    rw [step_of_decode hd he]
    exact ⟨fun h => by rw [advancePins_of_nil (hup.trans h)],
      fun p ps h => by rw [advancePins_of_cons (hup.trans h)]⟩
  · simp only [step, hd, he]
  · simp only [step, hd, he]

end Sys2Proof.Proofs
end

section
/-! PROOF. The report layout as a whole: each field says the bytes of its range and no others (R51), the ranges tile
the buffer (R54), and so DECODE loses nothing (R102). -/

namespace Sys2Proof.Proofs
open Sys2Proof.Machine Sys2Proof.Stated

/-! ### Two buffers that agree on a byte range -/

/-- The buffers have the same bytes `a` to `a + n - 1`. -/
def AgreeOn (raw raw' : RawReport) (a n : Nat) : Prop :=
  ∀ (i : Nat) (h : i < 64), a ≤ i → i < a + n → raw[i] = raw'[i]

theorem agreeOn_iff_forall_lt {raw raw' : RawReport} {a n : Nat} (h : a + n ≤ 64) :
    AgreeOn raw raw' a n ↔ ∀ (j : Nat) (hj : j < n), raw[a + j] = raw'[a + j] := by
  refine ⟨fun agree j hj => agree _ (by omega) (by omega) (by omega), fun agree i hi ha hn => ?_⟩
  obtain ⟨j, rfl⟩ := Nat.exists_eq_add_of_le ha
  exact agree j (by omega)

theorem agreeOn_add (raw raw' : RawReport) (a m n : Nat) :
    AgreeOn raw raw' a (m + n) ↔ AgreeOn raw raw' a m ∧ AgreeOn raw raw' (a + m) n := by
  refine ⟨fun h => ⟨fun i hi ha hm => h i hi ha (by omega), fun i hi ha hm => h i hi (by omega) (by omega)⟩,
    fun ⟨hm, hn⟩ i hi ha hlt => ?_⟩
  obtain hi' | hi' := Nat.lt_or_ge i (a + m)
  · exact hm i hi ha hi'
  · exact hn i hi hi' (by omega)

/-- U8 says its one byte (R73). -/
theorem agreeOn_one_iff {raw raw' : RawReport} {a : Nat} (h : a < 64) :
    AgreeOn raw raw' a 1 ↔ u8 raw a h = u8 raw' a h := by
  refine ⟨fun agree => agree a h (Nat.le_refl a) (Nat.lt_succ_self a), fun same i _ ha hlt => ?_⟩
  obtain rfl : i = a := by omega
  exact same

/-- U16SW says its two bytes (R74). -/
theorem agreeOn_two_iff {raw raw' : RawReport} {k : Nat} (h : k + 1 < 64) :
    AgreeOn raw raw' k 2 ↔ u16sw raw k h = u16sw raw' k h := by
  rw [agreeOn_add raw raw' k 1 1, agreeOn_one_iff (by omega), agreeOn_one_iff h, and_comm]
  exact pair_inj.symm

/-- VALID16 says bytes 2 and 3, in either order (R75). -/
theorem agreeOn_valid16_iff (swap : Bool) (raw raw' : RawReport) :
    AgreeOn raw raw' 2 2 ↔ valid16 swap raw = valid16 swap raw' := by
  cases swap with
  | true => exact agreeOn_two_iff (by decide)
  | false =>
    rw [agreeOn_add raw raw' 2 1 1, agreeOn_one_iff (by decide), agreeOn_one_iff (by decide)]
    exact pair_inj.symm

/-- SAMPLE says its four bytes (R78). -/
theorem agreeOn_four_iff {raw raw' : RawReport} {a : Nat} (h : a + 3 < 64) :
    AgreeOn raw raw' a 4 ↔ sampleAt raw a h = sampleAt raw' a h := by
  rw [agreeOn_add raw raw' a 2 2, agreeOn_add raw raw' (a + 2) 1 1, agreeOn_two_iff (by omega),
    agreeOn_one_iff (by omega), agreeOn_one_iff h]
  exact (Sample.mk.injEq ..).to_iff.symm

/-- RAWN says the bytes of its block (R79). -/
theorem agreeOn_block_iff {raw raw' : RawReport} {a n : Nat} (h : a + n ≤ 64) :
    AgreeOn raw raw' a n ↔ (rawn raw a n h).toList = (rawn raw' a n h).toList := by
  rw [agreeOn_iff_forall_lt h, Vector.toList_inj]
  refine ⟨fun agree => Vector.ext fun j hj => ?_, fun same j hj => ?_⟩
  · rw [rawn_getElem, rawn_getElem, agree j hj]
  · rw [← rawn_getElem raw a n h j hj, same, rawn_getElem]

/-! ### O25: a field says exactly the bytes of its range -/

theorem agreeOn_field_iff (swap : Bool) (raw raw' : RawReport) (f : ReportField) :
    AgreeOn raw raw' f.offset f.bytes ↔ (reportOf swap raw).field f = (reportOf swap raw').field f := by
  cases f with
  | reportId | declaredLength => exact (agreeOn_one_iff (by decide)).trans (FieldValue.byte.injEq ..).to_iff.symm
  | validWord => exact (agreeOn_valid16_iff swap raw raw').trans (FieldValue.word.injEq ..).to_iff.symm
  | ref1cnt | ref2cnt | ref3cnt | ref4cnt | handset1 | handset2 =>
    exact (agreeOn_two_iff (by decide)).trans (FieldValue.word.injEq ..).to_iff.symm
  | ref1 | ref2 | ref3 | ref4 | ref5 | ref6 | ref7 | ref8 =>
    exact (agreeOn_four_iff (by decide)).trans (FieldValue.sample.injEq ..).to_iff.symm
  | diagnostic | undefined1 | undefined2 =>
    exact (agreeOn_block_iff (by decide)).trans (FieldValue.block.injEq ..).to_iff.symm

/-- Settles O25: one lemma for each shape of field. -/
theorem fieldDependsOnItsRange : Obligations.FieldDependsOnItsRange := by
  intro swap raw raw' r r' f hr hr'
  obtain rfl := eq_reportOf_of_decodeReport hr
  obtain rfl := eq_reportOf_of_decodeReport hr'
  exact agreeOn_field_iff swap raw raw' f

/-! ### O24: the fields tile the buffer -/

theorem mem_all_fields (f : ReportField) : f ∈ ReportField.all := by
  cases f <;> decide

theorem field_range_le (f : ReportField) : f.offset + f.bytes ≤ 64 := by
  cases f <;> decide

/-- Every byte lies in the range of exactly one field (R54), by going through the bytes. -/
theorem exists_unique_field_of_byte : ∀ i : Fin 64, ∃ f ∈ ReportField.all,
    f.offset ≤ i.val ∧ i.val < f.offset + f.bytes ∧
      ∀ g ∈ ReportField.all, g.offset ≤ i.val → i.val < g.offset + g.bytes → g = f := by
  decide

/-- Settles O24: the layout table, field by field and byte by byte. -/
theorem layoutTilesTheBuffer : Obligations.LayoutTilesTheBuffer := by
  refine ⟨fun f => ⟨mem_all_fields f, field_range_le f⟩, fun i => ?_, rfl⟩
  obtain ⟨f, -, tile⟩ := exists_unique_field_of_byte i
  exact ⟨f, tile⟩

/-! ### O26: DECODE is a bijection -/

/-- No byte is in no field, so buffers with the same report are the same buffer (R102). -/
theorem reportOf_injective (swap : Bool) : Function.Injective (reportOf swap) := by
  intro raw raw' same
  ext1 i hi
  obtain ⟨f, -, hlo, hhi, -⟩ := exists_unique_field_of_byte ⟨i, hi⟩
  exact (agreeOn_field_iff swap raw raw' f).2 (by rw [same]) i hi hlo hhi

/-- A word comes back from the two bytes of the rebuilt buffer, whichever way round VALID16 reads them. -/
theorem valid16_toRaw (swap : Bool) (r : StatusReport) : valid16 swap (r.toRaw swap) = r.validWord := by
  cases swap <;> exact pair_highByte_lowByte _

theorem sampleAt_eq_of_bytes {raw : RawReport} {a : Nat} {h : a + 3 < 64} {x : Sample}
    (hhi : raw[a + 1] = highByte x.position) (hlo : raw[a] = lowByte x.position) (hstatus : raw[a + 2] = x.status)
    (hspeed : raw[a + 3] = x.speed) : sampleAt raw a h = x := by
  rw [sampleAt, u16sw, hhi, hlo, pair_highByte_lowByte, u8, u8, hstatus, hspeed]

theorem block_eq_of_bytes {raw : RawReport} {a n : Nat} (h : a + n ≤ 64) {v : Vector Byte n}
    (bytes : ∀ (j : Nat) (hj : j < n), raw[a + j] = v[j]) : (rawn raw a n h).toList = v.toList := by
  rw [Vector.toList_inj]
  ext1 j hj
  rw [rawn_getElem, bytes]

/-- A report is its fields (R23). -/
theorem report_ext {r r' : StatusReport} (h : ∀ f, r.field f = r'.field f) : r = r' := by
  have listed : ∀ f ∈ ReportField.all, r.field f = r'.field f := fun f _ => h f
  cases r; cases r'
  simpa [ReportField.all, StatusReport.field, Vector.toList_inj] using listed

/-- Each field of a report comes back from the bytes that the rebuilt buffer puts in its range (R102). -/
theorem reportOf_toRaw (swap : Bool) (r : StatusReport) : reportOf swap (r.toRaw swap) = r := by
  refine report_ext fun f => ?_
  cases f with
  | reportId | declaredLength => rfl
  | validWord => exact congrArg _ (valid16_toRaw swap r)
  | ref1cnt | ref2cnt | ref3cnt | ref4cnt | handset1 | handset2 => exact congrArg _ (pair_highByte_lowByte _)
  | ref1 | ref2 | ref3 | ref4 | ref5 | ref6 | ref7 | ref8 =>
    exact congrArg _ (sampleAt_eq_of_bytes rfl rfl rfl rfl)
  | diagnostic | undefined1 | undefined2 =>
    exact congrArg _ (block_eq_of_bytes (by decide) fun j hj => by interval_cases j <;> rfl)

/-- Settles O26: rebuilding is a right inverse of an injective function. -/
theorem decodeIsBijection : Obligations.DecodeIsBijection := by
  refine ⟨fun swap raw r h => ?_, fun swap r hid => ?_⟩
  · obtain rfl := eq_reportOf_of_decodeReport h
    exact reportOf_injective swap (reportOf_toRaw swap _)
  · exact (decodeReport_eq_ok_iff swap _ r).2 ⟨hid, (reportOf_toRaw swap r).symm⟩

/-! ### O27, O28: byte 1 and byte 0 -/

/-- No field but `declaredLength` has byte 1 among its bytes (R83). -/
theorem reportOf_set_one (swap : Bool) (raw : RawReport) (b : Byte) :
    reportOf swap (raw.set 1 b) = { reportOf swap raw with declaredLength := b } := by
  simp [reportOf_eq_reportBytes, reportBytes, sampleBytes]

/-- Settles O27: byte 1 is not the identifier, and one field reads it. -/
theorem declaredLengthLeavesOtherFields : Obligations.DeclaredLengthLeavesOtherFields := by
  intro swap raw r b h
  obtain ⟨hid, rfl⟩ := (decodeReport_eq_ok_iff swap raw r).1 h
  have hid' : (raw.set 1 b)[0] = Config.statusId := by simpa using hid
  exact (decodeReport_eq_ok_iff swap _ _).2 ⟨hid', (reportOf_set_one swap raw b).symm⟩

/-- Settles O28: the identifier check of DECODE. -/
theorem exactlyStatusBuffersDecode : Obligations.ExactlyStatusBuffersDecode := fun swap raw =>
  ⟨fun ⟨r, h⟩ => ((decodeReport_eq_ok_iff swap raw r).1 h).1,
    fun hid => ⟨_, (decodeReport_eq_ok_iff swap raw _).2 ⟨hid, rfl⟩⟩⟩

end Sys2Proof.Proofs
end

section
/-! PROOF. The not-ready signature byte by byte (R108), and that a buffer has it exactly when its report is blank
(R109 and its converse). -/

namespace Sys2Proof.Proofs
open Sys2Proof.Machine Sys2Proof.Stated

/-! ### O30: which bytes NOT_READY reads -/

theorem notReady_eq_false_iff (raw : RawReport) : notReady raw = false ↔ ¬ Signature raw := by
  rw [← notReady_eq_true_iff, Bool.not_eq_true]

/-- Settles O30: the byte that is put there, against the signature's rule for its offset; from 59 on there is none. -/
theorem notReadyByteByByte : Obligations.NotReadyByteByByte := by
  refine fun raw b => ⟨fun i h hlo hhi hb => ?_, fun hb => ?_, fun hb => ?_, fun i h hlo => ?_⟩
  · refine (notReady_eq_false_iff _).2 fun ⟨_, _, zeros⟩ => hb ?_
    simpa using zeros i h hlo hhi
  · refine (notReady_eq_false_iff _).2 fun ⟨_, length, _⟩ => hb ?_
    simpa using length
  · refine (notReady_eq_false_iff _).2 fun ⟨identifier, _, _⟩ => hb ?_
    simpa using identifier
  · have unread (j : Nat) (hj : j < 59) : (raw.set i b)[j] = raw[j] := Vector.getElem_set_ne _ _ (by omega)
    rw [Bool.eq_iff_iff, notReady_eq_true_iff, notReady_eq_true_iff, Signature, Signature, unread 0 (by decide),
      unread 1 (by decide)]
    have zeros : (∀ (j : Nat) (hj : j < 64), 2 ≤ j → j < 59 → (raw.set i b)[j] = 0) ↔
        ∀ (j : Nat) (hj : j < 64), 2 ≤ j → j < 59 → raw[j] = 0 :=
      forall₄_congr fun j hj _ hlt => by rw [unread j hlt]
    rw [zeros]

/-! ### The signature as a buffer, and its report -/

/-- The buffer that has the signature and zeros after it, the document's `0438..0`. -/
def signatureRaw : RawReport := (zeroRaw.set 0 Config.statusId).set 1 Config.notReadyLen

/-- The identifier, the length 56, and zeros in every other field but the last. -/
def blankReport (undefined2 : Vector Byte 6) : StatusReport :=
  { reportId := Config.statusId, declaredLength := Config.notReadyLen, validWord := 0
    ref1 := ⟨0, 0, 0⟩, ref2 := ⟨0, 0, 0⟩, ref3 := ⟨0, 0, 0⟩, ref4 := ⟨0, 0, 0⟩
    ref1cnt := 0, ref2cnt := 0, ref3cnt := 0, ref4cnt := 0
    ref5 := ⟨0, 0, 0⟩, diagnostic := Vector.replicate 8 0, undefined1 := Vector.replicate 2 0
    handset1 := 0, handset2 := 0, ref6 := ⟨0, 0, 0⟩, ref7 := ⟨0, 0, 0⟩, ref8 := ⟨0, 0, 0⟩
    undefined2 := undefined2 }

theorem blankReport_field_of_ne {f : ReportField} (h : f ≠ .undefined2) (v v' : Vector Byte 6) :
    (blankReport v).field f = (blankReport v').field f := by
  cases f with
  | undefined2 => exact absurd rfl h
  | _ => rfl

theorem reportOf_signatureRaw (swap : Bool) :
    reportOf swap signatureRaw = blankReport (Vector.replicate 6 0) := by
  cases swap <;> decide

theorem signatureRaw_zero {i : Nat} (h : i < 64) (hi : 2 ≤ i) : signatureRaw[i] = 0 := by
  simp [signatureRaw, zeroRaw, Vector.getElem_set_ne, show 0 ≠ i by omega, show 1 ≠ i by omega]

/-- The signature is the bytes 0 to 58 of that buffer (R105). -/
theorem signature_iff_agreeOn (raw : RawReport) : Signature raw ↔ AgreeOn raw signatureRaw 0 59 := by
  refine ⟨fun ⟨identifier, length, zeros⟩ i hi _ hlt => ?_, fun agree => ⟨?_, ?_, fun i hi hlo hlt => ?_⟩⟩
  · match i with
    | 0 => exact identifier
    | 1 => exact length
    | i + 2 => rw [zeros (i + 2) hi (by omega) hlt, signatureRaw_zero hi (by omega)]
  · exact agree 0 (by decide) (by decide) (by decide)
  · exact agree 1 (by decide) (by decide) (by decide)
  · rw [agree i hi (by omega) hlt, signatureRaw_zero hi hlo]

/-- The fields before the last end at byte 58, and `undefined2` is bytes 58 to 63. -/
theorem field_end_le_of_ne_undefined2 {f : ReportField} (h : f ≠ .undefined2) : f.offset + f.bytes ≤ 58 := by
  revert h
  cases f <;> decide

/-- Below `undefined2` the bytes are the signature's exactly when the fields are. -/
theorem agreeOn_signatureRaw_iff (swap : Bool) (raw : RawReport) :
    AgreeOn raw signatureRaw 0 58 ↔ reportOf swap raw = blankReport (reportOf swap raw).undefined2 := by
  refine ⟨fun agree => report_ext fun f => ?_, fun same i hi _ hlt => ?_⟩
  · by_cases hf : f = .undefined2
    · rw [hf]
      rfl
    · have := field_end_le_of_ne_undefined2 hf
      rw [blankReport_field_of_ne hf _ (Vector.replicate 6 0), ← reportOf_signatureRaw swap]
      exact (agreeOn_field_iff swap raw _ f).1 fun i hi _ hlt => agree i hi (by omega) (by omega)
  · obtain ⟨f, -, hlo, hhi, -⟩ := exists_unique_field_of_byte ⟨i, hi⟩
    have hf : f ≠ .undefined2 := by
      rintro rfl
      exact absurd hlo (Nat.not_le_of_lt hlt)
    refine (agreeOn_field_iff swap raw _ f).2 ?_ i hi hlo hhi
    rw [reportOf_signatureRaw, same, blankReport_field_of_ne hf]

/-- The signature read off the report: blank but for the last five bytes of `undefined2` (R105, R109). -/
theorem signature_iff_report (swap : Bool) (raw : RawReport) :
    Signature raw ↔ reportOf swap raw = blankReport (reportOf swap raw).undefined2 ∧
      (reportOf swap raw).undefined2[0] = 0 := by
  rw [signature_iff_agreeOn, agreeOn_add raw signatureRaw 0 58 1, agreeOn_signatureRaw_iff swap,
    agreeOn_one_iff (by decide)]
  rfl

/-- `Blank` says the same of any report with the status identifier (R109). -/
theorem blank_iff_eq_blankReport {r : StatusReport} (hid : r.reportId = Config.statusId) :
    r.Blank ↔ r = blankReport r.undefined2 ∧ r.undefined2[0] = 0 := by
  refine ⟨fun blank => ⟨report_ext fun f => ?_, blank.undefined2⟩, fun ⟨same, h58⟩ => ?_⟩
  · obtain ⟨hlen, hvalid, hsamples, hcounters, hhandset1, hhandset2, hdiagnostic, hundefined1, -⟩ := blank
    cases f with
    | reportId => exact congrArg _ hid
    | declaredLength => exact congrArg _ hlen
    | validWord => exact congrArg _ hvalid
    | ref1 => exact congrArg _ (hsamples 0)
    | ref2 => exact congrArg _ (hsamples 1)
    | ref3 => exact congrArg _ (hsamples 2)
    | ref4 => exact congrArg _ (hsamples 3)
    | ref5 => exact congrArg _ (hsamples 4)
    | ref6 => exact congrArg _ (hsamples 5)
    | ref7 => exact congrArg _ (hsamples 6)
    | ref8 => exact congrArg _ (hsamples 7)
    | ref1cnt => exact congrArg _ (hcounters 0)
    | ref2cnt => exact congrArg _ (hcounters 1)
    | ref3cnt => exact congrArg _ (hcounters 2)
    | ref4cnt => exact congrArg _ (hcounters 3)
    | handset1 => exact congrArg _ hhandset1
    | handset2 => exact congrArg _ hhandset2
    | diagnostic => exact congrArg (fun v => FieldValue.block v.toList) hdiagnostic
    | undefined1 => exact congrArg (fun v => FieldValue.block v.toList) hundefined1
    | undefined2 => rfl
  · rw [same]
    exact ⟨rfl, rfl, fun n => by fin_cases n <;> rfl, fun n => by fin_cases n <;> rfl, rfl, rfl, rfl, rfl, h58⟩

/-- NOT_READY holds of a status buffer exactly when its report is blank (R107, R109). -/
theorem notReady_iff_blank {raw : RawReport} (hid : raw[0] = Config.statusId) (swap : Bool) :
    notReady raw = true ↔ (reportOf swap raw).Blank :=
  (notReady_eq_true_iff raw).trans
    ((signature_iff_report swap raw).trans (blank_iff_eq_blankReport (r := reportOf swap raw) hid).symm)

/-! ### O31: the report of a buffer with the signature -/

/-- Settles O31: the blank report's fields, and `undefined2` from its bytes. -/
theorem notReadyReportIsBlank : Obligations.NotReadyReportIsBlank := by
  intro swap raw h
  have signature := (notReady_eq_true_iff raw).1 h
  obtain ⟨same, h58⟩ := (signature_iff_report swap raw).1 signature
  refine ⟨_, (decodeReport_eq_ok_iff swap raw _).2 ⟨signature.1, rfl⟩, ?_⟩
  rw [same]
  have block : (reportOf swap raw).undefined2 = #v[(0 : Byte), raw[59], raw[60], raw[61], raw[62], raw[63]] := by
    rw [← (h58 : raw[58] = 0)]
    rfl
  refine ⟨rfl, rfl, rfl, ?_, ?_, rfl, rfl, ?_, ?_, block⟩
  · simp [blankReport, StatusReport.samples]
  · simp [blankReport, StatusReport.counters]
  · simp [blankReport]
  · simp [blankReport]

end Sys2Proof.Proofs
end

section
/-! PROOF. The hex digit stream against bytes and numbers (R72 to R75), and the validFlags word under the two byte
orders (D9). -/

namespace Sys2Proof.Proofs
open Sys2Proof.Machine Sys2Proof.Stated

/-! ### O19: a digit range as a number -/

/-- The two digits of a byte, high nibble first (R72). -/
theorem byte_eq_nibbles (b : Byte) :
    (b.extractLsb' 4 4).toNat * 16 + (b.extractLsb' 0 4).toNat = b.toNat := by
  have := b.isLt
  rw [BitVec.extractLsb'_toNat, BitVec.extractLsb'_toNat, Nat.shiftRight_eq_div_pow, Nat.shiftRight_zero]
  omega

/-- One byte more is two digits more (R72). -/
theorem hexStream_take_succ (raw : RawReport) {i : Nat} (h : i < 64) :
    (hexStream raw).toList.take (2 * (i + 1)) =
      (hexStream raw).toList.take (2 * i) ++ [raw[i].extractLsb' 4 4, raw[i].extractLsb' 0 4] := by
  have length : (hexStream raw).toList.length = 128 := Vector.length_toList
  rw [Nat.mul_add, List.take_succ_eq_append_getElem (by omega), List.take_succ_eq_append_getElem (by omega),
    Vector.getElem_toList, Vector.getElem_toList, hexStream_even raw i h, hexStream_odd raw i h, List.append_assoc]
  rfl

theorem digitRange_succ (raw : RawReport) {lo i : Nat} (hlo : lo ≤ 2 * i) (h : i < 64) :
    digitRange raw lo (2 * (i + 1)) =
      digitRange raw lo (2 * i) ++ [raw[i].extractLsb' 4 4] ++ [raw[i].extractLsb' 0 4] := by
  have within : lo ≤ ((hexStream raw).toList.take (2 * i)).length := by
    rw [List.length_take, Vector.length_toList]
    omega
  rw [digitRange, hexStream_take_succ raw h, List.drop_append_of_le_length within, List.append_assoc]
  rfl

theorem rawn_succ_toList (raw : RawReport) (a n : Nat) (h : a + (n + 1) ≤ 64) :
    (rawn raw a (n + 1) h).toList = (rawn raw a n (by omega)).toList ++ [raw[a + n]] := by
  simp [rawn, memRead, Vector.ofFn_succ, Vector.toList_push]

/-- Settles O19: by induction on the number of bytes. -/
theorem digitRangeIsBigEndian : Obligations.DigitRangeIsBigEndian := by
  intro raw a n h
  induction n with
  | zero =>
    have noDigits : digitRange raw (2 * a) (2 * a) = [] := by simp [digitRange]
    have noBytes : (rawn raw a 0 h).toList = [] := by simp [rawn, memRead]
    rw [Nat.add_zero, noDigits, noBytes]
    rfl
  | succ n ih =>
    rw [← Nat.add_assoc, digitRange_succ raw (by omega) (by omega), parseBase16_append, parseBase16_append,
      ih (by omega), rawn_succ_toList, List.foldl_append]
    have digits := byte_eq_nibbles raw[a + n]
    rw [List.foldl_cons, List.foldl_nil]
    omega

/-! ### O20: the extractors' digit forms -/

/-- The two digits of byte `i` read as the byte (R73). -/
theorem parseBase16_byte (raw : RawReport) (i : Nat) (h : i < 64) :
    parseBase16 [(hexStream raw)[2 * i], (hexStream raw)[2 * i + 1]] = raw[i].toNat := by
  rw [hexStream_even raw i h, hexStream_odd raw i h, ← byte_eq_nibbles]
  simp [parseBase16]

/-- Two more digits are one more byte. -/
theorem parseBase16_four (a b c d : U4) :
    parseBase16 [a, b, c, d] = parseBase16 [a, b] * 256 + parseBase16 [c, d] := by
  simp only [parseBase16, List.foldl]
  omega

/-- Settles O20: byte by byte; VALID16 without the swap is the digit range of bytes 2 and 3. -/
theorem extractorsEqualDigitForms : Obligations.ExtractorsEqualDigitForms := by
  refine ⟨fun raw a h => (parseBase16_byte raw a h).symm, fun raw k h => ?_, fun raw => ⟨?_, rfl⟩⟩
  · have number : (u16sw raw k h).toNat = raw[k + 1].toNat * 256 + raw[k].toNat := pair_toNat _ _
    refine ⟨number, ?_⟩
    rw [number, parseBase16_four, parseBase16_byte raw k (by omega)]
    exact congrArg (· * 256 + _) (parseBase16_byte raw (k + 1) h).symm
  · have bytes : (rawn raw 2 2).toList = [raw[2], raw[3]] := rfl
    calc (valid16 false raw).toNat
      _ = raw[2].toNat * 256 + raw[3].toNat := pair_toNat _ _
      _ = (rawn raw 2 2).toList.foldl (fun v b => v * 256 + b.toNat) 0 := by
        rw [bytes]
        simp
      _ = parseBase16 (digitRange raw 4 8) := (digitRangeIsBigEndian raw 2 2 (by decide)).symm

/-! ### O23: the other byte order of the validFlags word -/

/-- Settles O23: exchanging the bytes of the word moves each bit by 8 places. -/
theorem validSwapPermutesFlags : Obligations.ValidSwapPermutesFlags := by
  intro raw i h
  rw [flags16_getElem _ i h, flags16_getElem _ _ (Nat.mod_lt _ (by decide)), valid16, valid16]
  simp only [if_true, Bool.false_eq_true, if_false, pair_getLsbD]
  obtain hi | hi := Nat.lt_or_ge i 8
  · rw [if_neg (by omega), if_pos (by omega)]
    congr 1
    omega
  · rw [if_pos (by omega), if_neg (by omega)]
    congr 1
    omega

end Sys2Proof.Proofs
end

section
/-! PROOF. The register set along every run: what is legal stays legal (R20 to R25, R103, R107), how the report register
changes (R104), and the states before and after the first reset edge (R69, R123, R124). -/

namespace Sys2Proof.Proofs
open Sys2Proof.Machine Sys2Proof.Stated

/-! ### O37: every edge keeps the register set legal -/

theorem legal_resetRegisters : resetRegisters.Legal where
  statusNotReserved := by decide
  reportIffOk := by decide
  errIdIffMismatch := by decide
  reportIdIsStatusId := by simp [resetRegisters]
  errIdIsNotStatusId := by simp [resetRegisters]
  notReadyIffBlank := by simp [resetRegisters]
  doneNeedsDecode := by decide

theorem legal_mismatchRegisters {actual : Byte} (hid : actual ≠ Config.statusId) :
    (mismatchRegisters actual).Legal where
  statusNotReserved := by simp [mismatchRegisters]
  reportIffOk := by simp [mismatchRegisters, Status.code]
  errIdIffMismatch := by simp [mismatchRegisters, Status.code]
  reportIdIsStatusId := by simp [mismatchRegisters]
  errIdIsNotStatusId := by simpa [mismatchRegisters] using hid
  notReadyIffBlank := by simp [mismatchRegisters]
  doneNeedsDecode := by simp [mismatchRegisters, Status.code]

/-- The signature bit of a decoded buffer is the blankness of its report. -/
theorem legal_okRegisters {raw : RawReport} (hid : raw[0] = Config.statusId) (swap : Bool) :
    (okRegisters (reportOf swap raw) (notReady raw)).Legal where
  statusNotReserved := by simp [okRegisters]
  reportIffOk := by simp [okRegisters, Status.code]
  errIdIffMismatch := by simp [okRegisters, Status.code]
  reportIdIsStatusId rep h := by
    cases h
    exact hid
  errIdIsNotStatusId := by simp [okRegisters]
  notReadyIffBlank := by simpa [okRegisters] using notReady_iff_blank hid swap
  doneNeedsDecode := by simp [okRegisters, Status.code]

/-- No rule asks for `out_done` = 1 (R21). -/
theorem legal_clearDone {r : Registers} (legal : r.Legal) : Registers.Legal { r with outDone := false } :=
  { legal with doneNeedsDecode := fun h => Bool.noConfusion h }

/-- A write to every register is legal when what it writes is (R10, R44). -/
theorem inv_writeRegisters {s : State} {f : Registers → Registers}
    (legal : ∀ r, s.regs = some r → (f r).Legal) : (s.writeRegisters f).Inv := by
  intro r' h
  obtain ⟨r, hr, rfl⟩ := Option.map_eq_some_iff.1 h
  exact legal r hr

theorem inv_applyReset (s : State) : s.applyReset.Inv := by
  rintro r ⟨⟩
  exact legal_resetRegisters

/-- The invariant speaks of registers, and the host's next levels are none. -/
theorem inv_advancePins {s : State} (inv : s.Inv) : s.advancePins.Inv := by
  rwa [State.Inv, advancePins_regs]

/-- Settles O37: each of the four register writes of an edge. -/
theorem everyStepKeepsRegistersLegal : Obligations.EveryStepKeepsRegistersLegal := by
  intro s t inv h
  obtain ⟨-, rfl⟩ | ⟨-, -, rfl⟩ | ⟨-, -, hid, rfl⟩ | ⟨-, -, hid, rfl⟩ := step_cases h <;>
    refine inv_advancePins ?_
  · exact inv_applyReset s
  · exact inv_writeRegisters fun r hr => legal_clearDone (inv r hr)
  · exact inv_writeRegisters fun _ _ => legal_okRegisters hid _
  · exact inv_writeRegisters fun _ _ => legal_mismatchRegisters hid

/-- Settles O38: the reset values are legal, and with no values there is nothing to be legal. -/
theorem resetRegistersAreLegal : Obligations.ResetRegistersAreLegal := by
  refine ⟨inv_applyReset State.reset, rfl, ?_⟩
  rintro p ps r ⟨⟩

/-! ### O40: how the report register changes -/

/-- Settles O40: the report column of the four register writes. -/
theorem reportChangesAsAWhole : Obligations.ReportChangesAsAWhole := by
  intro s t r r' hs h hr'
  obtain ⟨hr, rfl⟩ | ⟨-, hv, rfl⟩ | ⟨-, hv, hid, rfl⟩ | ⟨-, hv, hid, rfl⟩ := step_cases h <;>
    rw [advancePins_regs] at hr'
  · cases hr'
    exact ⟨fun hr0 => by simp [hr] at hr0, fun _ => .inl rfl⟩
  · cases (congrArg State.regs (holdRegisters_of_regs hs)).symm.trans hr'
    exact ⟨fun _ _ => rfl, fun changed => absurd rfl changed⟩
  · cases (congrArg State.regs (acceptReport_of_regs hs _ _)).symm.trans hr'
    exact ⟨fun _ hv0 => by simp [hv] at hv0,
      fun _ => .inr ⟨_, (decodeReport_eq_ok_iff _ _ _).2 ⟨hid, rfl⟩, rfl⟩⟩
  · cases (congrArg State.regs (takeProtocolMismatch_of_regs hs _)).symm.trans hr'
    exact ⟨fun _ hv0 => by simp [hv] at hv0, fun _ => .inl rfl⟩

/-! ### O43: one reset edge is enough -/

theorem step_completes (s : State) : ∃ t, step s = .next t :=
  let ⟨_, t, _, _, ht⟩ := everyEdgeCompletes.1 s
  ⟨t, ht⟩

theorem resetApplied_of_regs {s : State} {r : Registers} (h : s.regs = some r) : s.ResetApplied := by
  rw [State.ResetApplied, h]
  rfl

theorem step_keeps_resetApplied {s t : State} (applied : s.ResetApplied) (h : step s = .next t) :
    t.ResetApplied := by
  obtain ⟨r, hs⟩ := Option.isSome_iff_exists.1 applied
  obtain ⟨r', ht⟩ := step_keeps_values hs h
  exact resetApplied_of_regs ht

/-- No run stops, and none takes the registers' values away (R26, R124). -/
theorem run_keeps_resetApplied (k : Nat) (s : State) (applied : s.ResetApplied) :
    ∃ t, core.run k s = .next t ∧ t.ResetApplied := by
  induction k generalizing s with
  | zero => exact ⟨s, rfl, applied⟩
  | succ k ih =>
    obtain ⟨t, ht⟩ := step_completes s
    rw [run_of_step ht]
    exact ih t (step_keeps_resetApplied applied ht)

/-- Settles O43: the reset row from the unknown state, and the run. -/
theorem oneResetEdgeBoots : Obligations.OneResetEdgeBoots :=
  ⟨fun p ps hr => regs_after_reset_edge (s := State.powerUp p ps) hr, run_keeps_resetApplied⟩

/-! ### O45: history is forgotten -/

/-- Two machines with the same levels on the pins and the same later edges. -/
def SameEdges (s s' : State) : Prop := s'.pins = s.pins ∧ s'.upcoming = s.upcoming

theorem eq_of_sameEdges {s s' : State} (edges : SameEdges s s') (hregs : s'.regs = s.regs) : s' = s := by
  cases s; cases s'
  obtain ⟨rfl, rfl⟩ := edges
  cases hregs
  rfl

theorem advancePins_sameEdges {s s' : State} (edges : SameEdges s s') :
    SameEdges s.advancePins s'.advancePins := by
  obtain ⟨hpins, hup⟩ := edges
  cases h : s.upcoming with
  | nil =>
    rw [advancePins_of_nil h, advancePins_of_nil (hup.trans h)]
    exact ⟨hpins, hup⟩
  | cons p ps =>
    rw [advancePins_of_cons h, advancePins_of_cons (hup.trans h)]
    exact ⟨rfl, rfl⟩

/-- No operation drives a pin: after an edge the levels are the host's next ones (R62). -/
theorem step_sameEdges {s t : State} (h : step s = .next t) : SameEdges s.advancePins t := by
  obtain ⟨v, hv⟩ := exec_completes _ s
  cases (step_of_decode (decode_eq s.pins) hv).symm.trans h
  exact advancePins_sameEdges (exec_frame hv)

theorem steps_keep_sameEdges {s s' t t' : State} (edges : SameEdges s s') (h : step s = .next t)
    (h' : step s' = .next t') : SameEdges t t' := by
  obtain ⟨hpins, hup⟩ := step_sameEdges h
  obtain ⟨hpins', hup'⟩ := step_sameEdges h'
  obtain ⟨hadv, hadvup⟩ := advancePins_sameEdges edges
  exact ⟨hpins'.trans (hadv.trans hpins.symm), hup'.trans (hadvup.trans hup.symm)⟩

/-- A reset edge or an accepted decode writes registers that the old ones do not occur in (R63, R65, R67). -/
theorem regs_after_overwriting_edge {s s' t t' : State} (applied : s.ResetApplied) (applied' : s'.ResetApplied)
    (edges : SameEdges s s') (overwrites : s.pins.rst = true ∨ s.pins.inValid = true)
    (h : step s = .next t) (h' : step s' = .next t') : t.regs = t'.regs := by
  cases hr : s.pins.rst with
  | true =>
    obtain ⟨u, hu, hregs⟩ := regs_after_reset_edge hr
    obtain ⟨u', hu', hregs'⟩ := regs_after_reset_edge (s := s') (by rw [edges.1, hr])
    cases hu.symm.trans h
    cases hu'.symm.trans h'
    exact hregs.trans hregs'.symm
  | false =>
    obtain ⟨r, hs⟩ := Option.isSome_iff_exists.1 applied
    obtain ⟨r', hs'⟩ := Option.isSome_iff_exists.1 applied'
    have hv : s.pins.inValid = true := overwrites.resolve_left (by simp [hr])
    exact decodingIsPure.2 s s' t t' r r' hs hs' hr hv edges.1 h h'

/-- Settles O45: up to the overwriting edge the two machines differ in their registers alone, and at it not even
there; by induction on the number of edges. -/
theorem historyIsForgotten : Obligations.HistoryIsForgotten := by
  intro k
  induction k with
  | zero =>
    rintro s s' - - - - ⟨p, hp, -⟩
    cases hp
  | succ k ih =>
    intro s s' applied applied' hpins hup ⟨p, hp, hover⟩
    have edges : SameEdges s s' := ⟨hpins, hup⟩
    obtain ⟨t, ht⟩ := step_completes s
    obtain ⟨t', ht'⟩ := step_completes s'
    have later : SameEdges t t' := steps_keep_sameEdges edges ht ht'
    have appliedT : t.ResetApplied := step_keeps_resetApplied applied ht
    rw [run_of_step ht, run_of_step ht']
    rw [List.take_succ_cons, List.mem_cons] at hp
    obtain rfl | hp := hp
    · obtain rfl : t' = t :=
        eq_of_sameEdges later (regs_after_overwriting_edge applied applied' edges hover ht ht').symm
      obtain ⟨u, hu, -⟩ := run_keeps_resetApplied k t' appliedT
      exact ⟨u, hu, hu⟩
    · obtain ⟨q, qs, hcons⟩ := List.exists_cons_of_ne_nil (List.ne_nil_of_mem (List.mem_of_mem_take hp))
      obtain ⟨hq, hqs⟩ := step_presents_next_edge ht hcons
      refine ih t t' appliedT (step_keeps_resetApplied applied' ht') later.1 later.2 ⟨p, ?_, hover⟩
      rwa [hq, hqs, ← hcons]

/-! ### O44: before the first reset edge -/

/-- A write has nothing to write to before the first reset edge (R123). -/
theorem writeRegisters_of_no_reset {s : State} (hs : s.regs = none) (f : Registers → Registers) :
    s.writeRegisters f = s := by
  rw [State.writeRegisters, hs, Option.map_none, ← hs]

/-- Every operation but RESET is a write to registers that have values (R33, R124). -/
theorem exec_eq_writeRegisters {i : Instr} (hi : i ≠ .reset) (s : State) :
    ∃ f, exec i s = .next (s.writeRegisters f) := by
  cases i with
  | reset => exact absurd rfl hi
  | idle => exact ⟨_, rfl⟩
  | decodeMismatch raw => exact ⟨_, rfl⟩
  | decodeStatus raw =>
    by_cases hid : raw[0] = Config.statusId
    · exact ⟨_, exec_decodeStatus_of_id hid s⟩
    · refine ⟨fun _ => mismatchRegisters raw[0], ?_⟩
      rw [exec, execDecodeStatus, (decodeReport_eq_mismatch_iff _ _ _).2 ⟨hid, rfl⟩]
      rfl

theorem exec_of_no_reset {s : State} (hs : s.regs = none) {i : Instr} (hi : i ≠ .reset) :
    exec i s = .next s := by
  obtain ⟨f, he⟩ := exec_eq_writeRegisters hi s
  rw [he, writeRegisters_of_no_reset hs]

/-- Settles O44: no write without values to write to, and no read. -/
theorem unknownUntilTheFirstReset : Obligations.UnknownUntilTheFirstReset := by
  intro s hs
  exact ⟨fun i hi => exec_of_no_reset hs hi, readPort_of_no_reset hs _, readPort_of_no_reset hs _,
    readPort_of_no_reset hs _, readPort_of_no_reset hs _, fun _ => readPort_of_no_reset hs _,
    fun _ => readPort_of_no_reset hs _, fun _ => readPort_of_no_reset hs _⟩

/-! ### O36, O35: what the ports show -/

theorem readStatus_of_code {s : State} {r : Registers} (hs : s.regs = some r) {st : Status}
    (h : r.outStatus = st.code) : readStatus s = .value st :=
  (readPort_of_regs hs _).trans (statusPort_of_code h)

theorem statusPort_of_reserved {r : Registers} (h : r.outStatus = 0b11) :
    r.statusPort = .fault .reservedStatus := by
  simp [Registers.statusPort, (ofCode_eq_none_iff _).2 h]

/-- Settles O36: the three named codes, and the one that names no status. -/
theorem statusPortCodes : Obligations.StatusPortCodes := fun _ _ hs =>
  ⟨readStatus_of_code hs (st := .empty), readStatus_of_code hs (st := .ok), readStatus_of_code hs (st := .mismatch),
    fun h => (readPort_of_regs hs _).trans (statusPort_of_reserved h)⟩

/-- With a report held, every view of it reads through its port (R22, R26). -/
theorem readPort_reportView_of_some {α : Type} {s : State} {r : Registers} {rep : StatusReport}
    (hs : s.regs = some r) (h : r.report = some rep) (view : StatusReport → α) :
    (s.readPort fun r => r.reportView view) = .value (view rep) :=
  (readPort_of_regs hs _).trans (reportView_some h view)

/-- Settles O35: the registers that DECODE_STATUS writes, read through each port. -/
theorem reportPortsShowTheReport : Obligations.ReportPortsShowTheReport := by
  intro s r raw hs hid
  have he := exec_decodeStatus_of_id hid s
  rw [acceptReport_of_regs hs, reportOf_eq_reportBytes] at he
  refine ⟨_, he, readStatus_of_code rfl rfl,
    readDone_of_regs (r := okRegisters _ _) rfl, fun f => ?_, fun i => ?_, fun n => ?_⟩
  · exact readPort_reportView_of_some rfl rfl _
  · exact (readPort_reportView_of_some rfl rfl _).trans (congrArg _ (flags16_getElem _ i.val i.isLt))
  · exact readPort_reportView_of_some rfl rfl _

end Sys2Proof.Proofs
end

section
/-! PROOF. The text of R61: what is printed reads back, and the zero padding. -/

namespace Sys2Proof.Proofs
open Sys2Proof.Machine Sys2Proof.Stated

/-! ### Hex digits as characters -/

theorem hexValue_hexChar (d : U4) : hexValue (hexChar d) = some d := by
  revert d
  decide

theorem hexChar_ne_dot (d : U4) : hexChar d ≠ '.' := by
  revert d
  decide

theorem mapAll_hexValue_map_hexChar (digits : List U4) : mapAll hexValue (digits.map hexChar) = some digits := by
  induction digits with
  | nil => rfl
  | cons d ds ih => rw [List.map_cons, mapAll, hexValue_hexChar, ih]

/-! ### The two forms of a buffer text -/

/-- A text of digits alone: none of them is the mark's dot (R61). -/
theorem parseBuffer_digits (digits : List U4) : parseBuffer (digits.map hexChar) = rawOfDigits digits := by
  have noMark : (digits.map hexChar).drop ((digits.map hexChar).length - 3) ≠ paddingMark := by
    intro h
    have dot : '.' ∈ digits.map hexChar := List.mem_of_mem_drop (by rw [h]; exact List.mem_cons_self)
    obtain ⟨d, -, hd⟩ := List.mem_map.1 dot
    exact hexChar_ne_dot d hd
  simp only [parseBuffer, if_neg noMark, mapAll_hexValue_map_hexChar]

/-- Fewer than 128 digits and the mark: zeros up to 128 (R61). -/
theorem parseBuffer_padded {digits : List U4} (h : digits.length < 128) :
    parseBuffer (digits.map hexChar ++ paddingMark) =
      rawOfDigits (digits ++ List.replicate (128 - digits.length) 0) := by
  have before : (digits.map hexChar ++ paddingMark).length - 3 = (digits.map hexChar).length := by
    simp [paddingMark]
  simp only [parseBuffer, before, List.drop_left, List.take_left, if_true, mapAll_hexValue_map_hexChar, if_pos h]

theorem parseLine_decodeText (text : List Char) :
    parseLine (decodeText ++ text) = (parseBuffer text).map decodeOperation := by
  have notReset : decodeText ++ text ≠ resetText := by simp [decodeText, resetText]
  have notIdle : decodeText ++ text ≠ idleText := by simp [decodeText, idleText]
  rw [parseLine, if_neg notReset, if_neg notIdle]
  rfl

/-! ### O46: the printed line reads back -/

/-- A byte is its two digits side by side (R72). -/
theorem append_nibbles (b : Byte) : (b.extractLsb' 4 4 ++ b.extractLsb' 0 4 : Byte) = b := by
  apply BitVec.eq_of_toNat_eq
  rw [BitVec.toNat_append, ← Nat.shiftLeft_add_eq_or_of_lt (BitVec.isLt _), Nat.shiftLeft_eq]
  exact byte_eq_nibbles b

/-- The digit stream holds the whole buffer (R72). -/
theorem rawOfDigits_hexStream (raw : RawReport) : rawOfDigits (hexStream raw).toList = some raw := by
  have digit (k : Nat) (hk : k < 128) : (hexStream raw).toList.getD k 0 = (hexStream raw)[k] := by
    simp [List.getD, hk]
  rw [rawOfDigits, if_pos (by simp), Option.some.injEq]
  ext1 i h
  rw [Vector.getElem_ofFn, digit _ (by omega), digit _ (by omega), hexStream_even raw i h, hexStream_odd raw i h,
    append_nibbles]

/-- The printer writes the digit stream, by induction on the number of bytes written (R61, R72). -/
theorem printBuffer_eq (raw : RawReport) : printBuffer raw = (hexStream raw).toList.map hexChar := by
  have upTo (i : Nat) (h : i ≤ 64) :
      (raw.toList.take i).flatMap (fun b => [hexChar (b.extractLsb' 4 4), hexChar (b.extractLsb' 0 4)]) =
        ((hexStream raw).toList.take (2 * i)).map hexChar := by
    induction i with
    | zero => rfl
    | succ i ih =>
      rw [List.take_succ_eq_append_getElem (by simpa using h), List.flatMap_append, ih (by omega),
        hexStream_take_succ raw h, List.map_append]
      rfl
  rw [printBuffer, ← List.take_of_length_le (l := raw.toList) (i := 64) (by simp), upTo 64 (by decide),
    List.take_of_length_le (by simp)]

theorem decodeOperation_of_statusId {raw : RawReport} (hid : raw[0] = Config.statusId) :
    decodeOperation raw = .decodeStatus raw := if_pos hid

theorem decodeOperation_of_otherId {raw : RawReport} (hid : raw[0] ≠ Config.statusId) :
    decodeOperation raw = .decodeMismatch raw := if_neg hid

/-- A printed buffer reads back as the operation its identifier selects. -/
theorem parseLine_printBuffer (raw : RawReport) :
    parseLine (decodeText ++ printBuffer raw) = some (decodeOperation raw) := by
  rw [parseLine_decodeText, printBuffer_eq, parseBuffer_digits, rawOfDigits_hexStream, Option.map_some]

/-- Settles O46: the two words by themselves, and a buffer through its digits. -/
theorem textRoundTrip : Obligations.TextRoundTrip := by
  intro i h
  cases i with
  | reset => rfl
  | idle => rfl
  | decodeStatus raw =>
    have hid : raw[0] = Config.statusId := by simpa [Instr.wellFormed] using h
    rw [printLine, parseLine_printBuffer, decodeOperation_of_statusId hid]
  | decodeMismatch raw =>
    have hid : raw[0] ≠ Config.statusId := by simpa [Instr.wellFormed] using h
    rw [printLine, parseLine_printBuffer, decodeOperation_of_otherId hid]

/-! ### O47: zero padding -/

/-- Settles O47: both texts give the buffer of the same 128 digits. -/
theorem textZeroPadding : Obligations.TextZeroPadding := by
  intro digits h
  have zeros : List.replicate (128 - digits.length) '0' =
      (List.replicate (128 - digits.length) (0 : U4)).map hexChar := by
    rw [List.map_replicate]
    rfl
  have full : (digits ++ List.replicate (128 - digits.length) 0).length = 128 := by
    rw [List.length_append, List.length_replicate, Nat.add_sub_cancel' (Nat.le_of_lt h)]
  rw [parseLine_decodeText, parseLine_decodeText, zeros, ← List.map_append, parseBuffer_digits, parseBuffer_padded h]
  refine ⟨rfl, ?_⟩
  rw [rawOfDigits, if_pos full]
  rfl

end Sys2Proof.Proofs
end
